-- ==== Sys2Proof/Word.lean ====
section
/-! DEFINITION. The widths of the CORE: message bytes, the 16-bit command and response words (30_encoding.md rules R90,
R91) and the two word widths of the compression functions (00_scope.md rule R9). -/

namespace Sys2Proof

/-- A byte: a message, key or digest byte, and the 8-bit operand of a command (30_encoding.md rule R94). -/
abbrev Byte := BitVec 8

/-- A command word or a response word (30_encoding.md rules R90, R91). -/
abbrev Word := BitVec 16

/-- The word of MD4, MD5, SHA-1, SHA-224 and SHA-256 (00_scope.md rule R9, W = 32). -/
abbrev W32 := BitVec 32

/-- The word of the 64-bit SHA-2 family (00_scope.md rule R9, W = 64). -/
abbrev W64 := BitVec 64

end Sys2Proof
end

