-- ==== Sys2Proof/Syntax.lean ====
section
/-! DEFINITION. The twelve commands of the CORE, one constructor per row of spec/opcode_table.json
(30_encoding.md rule R95). -/

namespace Sys2Proof

/-- The commands. The operand, where there is one, is the unsigned byte `arg` of format A, used as it is
(30_encoding.md rule R94). -/
inductive Instr where
  /-- `INIT`, 40_engine_commands.md rule R120. -/
  | init
  /-- `UPD b`, one message byte, 40_engine_commands.md rule R122. -/
  | upd (b : Byte)
  /-- `FIN`, 40_engine_commands.md rule R126. -/
  | fin
  /-- `RDD i`, a digest byte index, 40_engine_commands.md rule R131. -/
  | rdd (i : Byte)
  /-- `RDS n`, a status register number, 40_engine_commands.md rule R132. -/
  | rds (n : Byte)
  /-- `HKINIT`, 46_hmac.md rule R241. -/
  | hkinit
  /-- `HKUPD b`, one key byte, 46_hmac.md rule R242. -/
  | hkupd (b : Byte)
  /-- `HKFIN`, 46_hmac.md rule R246. -/
  | hkfin
  /-- `HMINIT`, 46_hmac.md rule R248. -/
  | hminit
  /-- `HMUPD b`, one message byte, 46_hmac.md rule R249. -/
  | hmupd (b : Byte)
  /-- `HMFIN`, 46_hmac.md rule R250. -/
  | hmfin
  /-- `HRDM i`, a MAC byte index, 46_hmac.md rule R252. -/
  | hrdm (i : Byte)
  deriving DecidableEq, Repr

end Sys2Proof
end

