-- ==== Sys2Proof/WellFormed.lean ====
section
/-! DEFINITION. Well-formedness: which command words are legal (30_encoding.md rules R90, R95, R97), stated from the table
of rule R95 alone, and which instructions are. -/

namespace Sys2Proof

/-- One row of the opcode map of 30_encoding.md rule R95: a word matches it when `word AND mask = match`. -/
structure OpcodeRow where
  mnemonic : String
  pattern : Word
  mask : Word
  deriving DecidableEq, Repr

/-- The opcode map, columns mnemonic, match, mask (30_encoding.md rule R95). -/
def opcodeRows : List OpcodeRow :=
  [⟨"INIT", 0x0100, 0xffff⟩, ⟨"UPD", 0x0200, 0xff00⟩, ⟨"FIN", 0x0300, 0xffff⟩, ⟨"RDD", 0x0400, 0xff00⟩,
   ⟨"RDS", 0x0500, 0xff00⟩, ⟨"HKINIT", 0x1100, 0xffff⟩, ⟨"HKUPD", 0x1200, 0xff00⟩, ⟨"HKFIN", 0x1300, 0xffff⟩,
   ⟨"HMINIT", 0x2100, 0xffff⟩, ⟨"HMUPD", 0x2200, 0xff00⟩, ⟨"HMFIN", 0x2300, 0xffff⟩, ⟨"HRDM", 0x2400, 0xff00⟩]

/-- The word matches the row. -/
def OpcodeRow.matchesWord (r : OpcodeRow) (w : Word) : Bool := (w &&& r.mask) == r.pattern

/-- A command word is legal when it matches a row of the opcode map; every other word is reserved (30_encoding.md rule
R97). -/
def legalWord (w : Word) : Bool := opcodeRows.any (·.matchesWord w)

/-- Every instruction is well-formed: its only operand is an unsigned 8-bit number and every 8-bit number is allowed
(30_encoding.md rule R94), which the type of the operand already says; an index out of range is no ill-formed instruction
but a refused one (60_exceptions.md rule R276). -/
def Instr.wellFormed : Instr → Bool
  | .init => true
  | .upd _ => true
  | .fin => true
  | .rdd _ => true
  | .rds _ => true
  | .hkinit => true
  | .hkupd _ => true
  | .hkfin => true
  | .hminit => true
  | .hmupd _ => true
  | .hmfin => true
  | .hrdm _ => true

end Sys2Proof
end

