-- ==== Sys2Proof/Decode.lean ====
section
/-! DEFINITION. The decoder, total on all 65536 command words (30_encoding.md rules R90, R95, R97), and the encoder written
from the same table. -/

namespace Sys2Proof

/-- Why a word is reserved (30_encoding.md rule R97). -/
inductive Reserved where
  /-- `op` is none of the twelve opcodes -/
  | opcode (op : Byte)
  /-- `op` is an opcode of format N and bits [7:0] are not zero -/
  | operandNotZero (op arg : Byte)
  deriving DecidableEq, Repr

/-- Bits [15:8] of a command word (30_encoding.md rule R90). -/
def opField (w : Word) : Byte := w.extractLsb' 8 8

/-- Bits [7:0] of a command word (30_encoding.md rule R90). -/
def argField (w : Word) : Byte := w.extractLsb' 0 8

/-- A format-N command: bits [7:0] must be zero (30_encoding.md rule R90). -/
def formatN (op arg : Byte) (i : Instr) : Except Reserved Instr :=
  if arg = 0 then .ok i else .error (.operandNotZero op arg)

/-- The decoder on the two fields of a word (30_encoding.md rules R90, R95). -/
def decodeFields (op arg : Byte) : Except Reserved Instr :=
  match op.toNat with
  | 0x01 => formatN op arg .init
  | 0x02 => .ok (.upd arg)
  | 0x03 => formatN op arg .fin
  | 0x04 => .ok (.rdd arg)
  | 0x05 => .ok (.rds arg)
  | 0x11 => formatN op arg .hkinit
  | 0x12 => .ok (.hkupd arg)
  | 0x13 => formatN op arg .hkfin
  | 0x21 => formatN op arg .hminit
  | 0x22 => .ok (.hmupd arg)
  | 0x23 => formatN op arg .hmfin
  | 0x24 => .ok (.hrdm arg)
  | _ => .error (.opcode op)

/-- The decoder (30_encoding.md rule R95). It needs no state (rule R98). -/
def decode (w : Word) : Except Reserved Instr := decodeFields (opField w) (argField w)

/-- A command word from its two fields (30_encoding.md rule R90). -/
def commandWord (op arg : Byte) : Word := op ++ arg

/-- The encoder (30_encoding.md rule R95). -/
def encode : Instr → Word
  | .init => commandWord 0x01 0x00
  | .upd b => commandWord 0x02 b
  | .fin => commandWord 0x03 0x00
  | .rdd i => commandWord 0x04 i
  | .rds n => commandWord 0x05 n
  | .hkinit => commandWord 0x11 0x00
  | .hkupd b => commandWord 0x12 b
  | .hkfin => commandWord 0x13 0x00
  | .hminit => commandWord 0x21 0x00
  | .hmupd b => commandWord 0x22 b
  | .hmfin => commandWord 0x23 0x00
  | .hrdm i => commandWord 0x24 i

/-- The command word whose bits are the low `nbits` bits of `w`. A command word crosses the interface whole and has no
byte order (20_memory.md rule R64), so bit k of the table's numbering is bit k of the word (log 10). -/
def tableWord (nbits w : Nat) : Word := BitVec.ofNat 16 (w % 2 ^ nbits)

/-- The instruction the decoder reads from a word numbered as spec/opcode_table.json numbers its bits. -/
def decodeTableWord (nbits w : Nat) : Option Instr :=
  match decode (tableWord nbits w) with
  | .ok i => some i
  | .error _ => none

end Sys2Proof
end

