-- ==== Sys2Proof/Config.lean ====
section
/-! DEFINITION. What is fixed for a CORE: the closed enumeration of algorithms (00_scope.md rule R6), and the one value
the model names for its own start state, the strap of `State.reset`. -/

namespace Sys2Proof

/-- The algorithm identifier, "closed enumeration" of ten values, in the order of the codes of 00_scope.md rule R6. -/
inductive Alg where
  | md2
  | md4
  | md5
  | sha1
  | sha2_224
  | sha2_256
  | sha2_384
  | sha2_512
  | sha2_512_224
  | sha2_512_256
  deriving DecidableEq, Repr

/-- The strap `ALG_SEL` at the reset that `State.reset` stands for. DESIGN CHOICE (log 1, unsafe): the strap is an input
of the HOST (70_reset_and_hazards.md rule R306), every value is possible, and the event `reset n` gives any other. -/
def Config.resetStrap : BitVec 4 := 0

end Sys2Proof
end

