-- ==== Sys2Proof/Machine/Params.lean ====
section
/-! DEFINITION. The implementation parameters of the ten algorithms: the table of 00_scope.md rule R6. -/

namespace Sys2Proof

/-- One row of the table of 00_scope.md rule R6. -/
structure AlgParams where
  /-- the code of the algorithm on the strap `ALG_SEL` -/
  code : Nat
  /-- block size in bytes -/
  B : Nat
  /-- digest length in bytes -/
  DL : Nat
  /-- word width in bits -/
  WW : Nat
  /-- number of state words (for MD2 the 48 state bytes and the 16 checksum bytes) -/
  NS : Nat
  /-- number of rounds -/
  NR : Nat
  /-- width in bits of the BitLength counter -/
  LW : Nat
  /-- length-field size in bytes in the padding (MD2 has none) -/
  LF : Nat
  deriving DecidableEq, Repr

/-- The table of 00_scope.md rule R6, columns code, B, DL, WW, NS, NR, LW, LF. -/
def Alg.params : Alg → AlgParams
  | .md2          => ⟨0, 16, 16, 8, 64, 18, 64, 0⟩
  | .md4          => ⟨1, 64, 16, 32, 4, 48, 64, 8⟩
  | .md5          => ⟨2, 64, 16, 32, 4, 64, 64, 8⟩
  | .sha1         => ⟨3, 64, 20, 32, 5, 80, 64, 8⟩
  | .sha2_224     => ⟨4, 64, 28, 32, 8, 64, 64, 8⟩
  | .sha2_256     => ⟨5, 64, 32, 32, 8, 64, 64, 8⟩
  | .sha2_384     => ⟨6, 128, 48, 64, 8, 80, 128, 16⟩
  | .sha2_512     => ⟨7, 128, 64, 64, 8, 80, 128, 16⟩
  | .sha2_512_224 => ⟨8, 128, 28, 64, 8, 80, 128, 16⟩
  | .sha2_512_256 => ⟨9, 128, 32, 64, 8, 80, 128, 16⟩

/-- The code of an algorithm on the strap. -/
def Alg.code (a : Alg) : Nat := a.params.code

/-- Block size in bytes. -/
def Alg.B (a : Alg) : Nat := a.params.B

/-- Digest length in bytes. -/
def Alg.DL (a : Alg) : Nat := a.params.DL

/-- Word width in bits. -/
def Alg.WW (a : Alg) : Nat := a.params.WW

/-- Number of state words. -/
def Alg.NS (a : Alg) : Nat := a.params.NS

/-- Number of rounds of a compression. -/
def Alg.NR (a : Alg) : Nat := a.params.NR

/-- Width of the BitLength counter in bits. -/
def Alg.LW (a : Alg) : Nat := a.params.LW

/-- Size of the length field in bytes. -/
def Alg.LF (a : Alg) : Nat := a.params.LF

/-- The byte orders of column BO of 00_scope.md rule R6. -/
inductive ByteOrder where
  /-- MD2: "bytes only" (20_memory.md rule R68) -/
  | bytesOnly
  /-- MD4 and MD5 (20_memory.md rule R65) -/
  | little
  /-- the seven SHA algorithms (20_memory.md rules R66, R67) -/
  | big
  deriving DecidableEq, Repr

/-- Column BO of 00_scope.md rule R6: the byte order of block words, length field and digest serialisation. -/
def Alg.BO : Alg → ByteOrder
  | .md2 => .bytesOnly
  | .md4 | .md5 => .little
  | .sha1 | .sha2_224 | .sha2_256 | .sha2_384 | .sha2_512 | .sha2_512_224 | .sha2_512_256 => .big

/-- The algorithm a strap value names: codes 0 to 9 of 00_scope.md rule R6; 10 to 15 name none (30_encoding.md
rule R96). -/
def Alg.ofCode (sel : BitVec 4) : Option Alg :=
  match sel.toNat with
  | 0 => some .md2
  | 1 => some .md4
  | 2 => some .md5
  | 3 => some .sha1
  | 4 => some .sha2_224
  | 5 => some .sha2_256
  | 6 => some .sha2_384
  | 7 => some .sha2_512
  | 8 => some .sha2_512_224
  | 9 => some .sha2_512_256
  | _ => none

end Sys2Proof
end

