-- ==== Sys2Proof/Machine/Bytes.lean ====
section
/-! DEFINITION. Byte sequences and the conversions between bytes and words: 00_scope.md rules R8, R10 and 20_memory.md
rules R64 to R70. -/

namespace Sys2Proof.Machine

/-- `rep(v, n)`: n bytes, each equal to v (00_scope.md rule R8). -/
def rep (v : Byte) (n : Nat) : List Byte := List.replicate n v

/-- `s[i .. i+n-1]`, `MemRead` of n bytes at index i (00_scope.md rules R8, R11). -/
def slice (s : List Byte) (i n : Nat) : List Byte := (s.drop i).take n

/-- The number a byte sequence is, least significant byte first (00_scope.md rule R10). -/
def leNat (s : List Byte) : Nat := s.foldr (fun b n => b.toNat + 256 * n) 0

/-- The number a byte sequence is, most significant byte first (00_scope.md rule R10). -/
def beNat (s : List Byte) : Nat := s.foldl (fun n b => 256 * n + b.toNat) 0

/-- `le32` of four bytes (00_scope.md rule R10). -/
def le32 (s : List Byte) : W32 := BitVec.ofNat 32 (leNat s)

/-- `be32` of four bytes (00_scope.md rule R10). -/
def be32 (s : List Byte) : W32 := BitVec.ofNat 32 (beNat s)

/-- `be64` of eight bytes (00_scope.md rule R10). -/
def be64 (s : List Byte) : W64 := BitVec.ofNat 64 (beNat s)

/-- The n bytes of a number, least significant byte first (00_scope.md rule R10). -/
def leBytes : Nat → Nat → List Byte
  | 0, _ => []
  | n + 1, v => BitVec.ofNat 8 v :: leBytes n (v / 256)

/-- The n bytes of a number, most significant byte first (00_scope.md rule R10). -/
def beBytes (n v : Nat) : List Byte := (leBytes n v).reverse

/-- `to_le32` (00_scope.md rule R10). -/
def toLe32 (w : W32) : List Byte := leBytes 4 w.toNat

/-- `to_be32` (00_scope.md rule R10). -/
def toBe32 (w : W32) : List Byte := beBytes 4 w.toNat

/-- `to_be64` (00_scope.md rule R10). -/
def toBe64 (w : W64) : List Byte := beBytes 8 w.toNat

/-- `X[j] = le32(blk[4j .. 4j+3])`, j = 0 .. 15 (20_memory.md rule R65). -/
def leWords32 (blk : List Byte) : List W32 := (List.range 16).map fun j => le32 (slice blk (4 * j) 4)

/-- `W[j] = be32(blk[4j .. 4j+3])`, j = 0 .. 15 (20_memory.md rule R66). -/
def beWords32 (blk : List Byte) : List W32 := (List.range 16).map fun j => be32 (slice blk (4 * j) 4)

/-- `W[j] = be64(blk[8j .. 8j+7])`, j = 0 .. 15 (20_memory.md rule R67). -/
def beWords64 (blk : List Byte) : List W64 := (List.range 16).map fun j => be64 (slice blk (8 * j) 8)

/-- `xorb(s, v)`: every byte of s exclusive-ored with v (46_hmac.md rule R240). -/
def xorb (s : List Byte) (v : Byte) : List Byte := s.map (· ^^^ v)

end Sys2Proof.Machine
end

