-- ==== Sys2Proof/Machine/Instance.lean ====
section
/-! DEFINITION. One engine instance as plain data (10_state.md rules R22 to R31) and what it holds after reset. -/

namespace Sys2Proof.Machine

/-- `e.PHASE` (10_state.md rule R31); code 3 never occurs. -/
inductive Phase where
  /-- "Uninitialized" -/
  | uninit
  /-- "Ready" -/
  | ready
  /-- "Finalized" -/
  | final
  deriving DecidableEq, Repr

/-- The registers of one engine instance. Arrays are lists whose lengths the invariant `Engine.wf` fixes (log 7); the
working registers of the shapes the configured algorithm does not have are empty (log 8). -/
structure Engine where
  /-- PHASE (10_state.md rule R31) -/
  phase : Phase
  /-- H[0 .. NS-1] of the algorithms with 32-bit words (10_state.md rule R22) -/
  h32 : List W32
  /-- H[0 .. 7] of the algorithms with 64-bit words (10_state.md rule R22) -/
  h64 : List W64
  /-- X[0 .. 47] of MD2 (10_state.md rule R23) -/
  x : List Byte
  /-- C[0 .. 15] of MD2 (10_state.md rule R23) -/
  c : List Byte
  /-- BUF[0 .. B-1] (10_state.md rule R25) -/
  buf : List Byte
  /-- BUFLEN (10_state.md rule R26) -/
  buflen : Nat
  /-- BITLEN (10_state.md rule R27) -/
  bitlen : Nat
  /-- DIGEST[0 .. DL-1] (10_state.md rule R28) -/
  digest : List Byte
  deriving DecidableEq, Repr

/-- Number of 32-bit words H of an algorithm (10_state.md rule R22). -/
def numH32 (a : Alg) : Nat := if a.WW = 32 then a.NS else 0

/-- Number of 64-bit words H of an algorithm (10_state.md rule R22). -/
def numH64 (a : Alg) : Nat := if a.WW = 64 then a.NS else 0

/-- Number of bytes X of an algorithm: 48 for MD2 (10_state.md rule R23). -/
def numX (a : Alg) : Nat := if a = .md2 then 48 else 0

/-- Number of bytes C of an algorithm: 16 for MD2 (10_state.md rule R23). -/
def numC (a : Alg) : Nat := if a = .md2 then 16 else 0

/-- An instance after reset of a CORE configured for `a`: PHASE = UNINIT (70_reset_and_hazards.md rule R300); every data
register is unspecified there and is given the value zero here. DESIGN CHOICE (log 2, unsafe). -/
def engineAtReset (a : Alg) : Engine where
  phase := .uninit
  h32 := List.replicate (numH32 a) 0
  h64 := List.replicate (numH64 a) 0
  x := rep 0 (numX a)
  c := rep 0 (numC a)
  buf := rep 0 a.B
  buflen := 0
  bitlen := 0
  digest := rep 0 a.DL

/-- An instance of a rejected CORE: no data state at all (10_state.md rule R47). -/
def engineRejected : Engine where
  phase := .uninit
  h32 := []
  h64 := []
  x := []
  c := []
  buf := []
  buflen := 0
  bitlen := 0
  digest := []

/-- An instance after reset with the strap value `sel` (70_reset_and_hazards.md rule R300, 10_state.md rule R47). -/
def engineOfStrap (sel : BitVec 4) : Engine :=
  match Alg.ofCode sel with
  | some a => engineAtReset a
  | none => engineRejected

/-- KBUF after reset with the strap value `sel`: unspecified in the spec, zeros here. DESIGN CHOICE (log 2, unsafe). -/
def kbufOfStrap (sel : BitVec 4) : List Byte :=
  match Alg.ofCode sel with
  | some a => rep 0 a.B
  | none => []

/-- ALGR.REJ as reset sets it: `ALG_SEL >= 10` (70_reset_and_hazards.md rule R300 (2)). -/
def rejOfStrap (sel : BitVec 4) : Bool := decide (10 ≤ sel.toNat)

/-- ERR as reset sets it (70_reset_and_hazards.md rule R300 (3)). -/
def errOfStrap (sel : BitVec 4) : BitVec 5 := if 10 ≤ sel.toNat then 0b00001 else 0b00000

end Sys2Proof.Machine
end

