-- ==== Sys2Proof/Machine/State.lean ====
section
/-! DEFINITION. The state of the CORE (10_state.md rules R20, R46), the HOST's inputs and the response log as the model's
own fields, the five fault causes of the spec, and the state after reset. -/

namespace Sys2Proof.Machine

/-- `HPHASE` (10_state.md rule R42); codes 5 to 7 never occur. -/
inductive HPhase where
  /-- H_NOKEY: no key has been loaded since reset -/
  | noKey
  /-- H_KEYING: a key is being received -/
  | keying
  /-- H_KEYED: a key is loaded, no message started -/
  | keyed
  /-- H_MSG: a message is being received -/
  | msg
  /-- H_DONE: a MAC is ready in OUTER.DIGEST and the key is still loaded -/
  | done
  deriving DecidableEq, Repr

/-- What the HOST can do to the CORE (70_reset_and_hazards.md rule R306). -/
inductive HostEvent where
  /-- present one 16-bit command word at the command port -/
  | command (w : Word)
  /-- assert RESET with `ALG_SEL = algSel` between commands -/
  | reset (algSel : BitVec 4)
  /-- assert RESET with `ALG_SEL = algSel` while the command `w` executes -/
  | aborted (w : Word) (algSel : BitVec 4)
  deriving DecidableEq, Repr

/-- The five fault causes (60_exceptions.md rule R270). A cause is reported by a REFUSED COMMAND, which is a next state of
the machine (rule R274); it is no stop. -/
inductive Cause where
  /-- ALG: the reset strap named no algorithm -/
  | alg
  /-- CMD: the command word is a reserved encoding -/
  | cmd
  /-- STATE: the command is not permitted in the present phase -/
  | state
  /-- LEN: the byte would take BITLEN past its limit -/
  | len
  /-- IDX: `arg` is not a legal index -/
  | idx
  deriving DecidableEq, Repr

/-- The reasons for which the machine stops with a fault: none. "Nothing in this hardware is `stuck`"
(93_implementation_defined.md part 1); every misuse is a refused command with a next state (60_exceptions.md rule R274).
No constructor, so no step can raise one (safe). -/
inductive Fault where
  deriving DecidableEq, Repr

/-- The reasons for which the model has no meaning for an instruction. -/
inductive Refusal where
  /-- raised by an arm of exec that has no meaning yet (safe); no arm of this model raises it -/
  | notModelled (mnemonic : String)
  deriving DecidableEq, Repr

/-- The state of the CORE: ALGR, ERR, three engine instances, the wrapper's registers (10_state.md rule R20); then the
model's own two fields, which hold the HOST's coming inputs and the responses it has been given (10_state.md rule R44:
neither is state of the CORE; log 3, log 4). -/
structure State where
  /-- ALGR.SEL (10_state.md rule R21) -/
  sel : BitVec 4
  /-- ALGR.REJ (10_state.md rule R21) -/
  rej : Bool
  /-- ERR, sticky: bit 0 ALG, 1 CMD, 2 STATE, 3 LEN, 4 IDX (10_state.md rule R33) -/
  err : BitVec 5
  /-- the instance ENG -/
  eng : Engine
  /-- the instance INNER of the HMAC wrapper -/
  inner : Engine
  /-- the instance OUTER of the HMAC wrapper -/
  outer : Engine
  /-- HPHASE (10_state.md rule R42) -/
  hphase : HPhase
  /-- KBUF[0 .. B-1] (10_state.md rule R41) -/
  kbuf : List Byte
  /-- KLEN (10_state.md rule R41) -/
  klen : Nat
  /-- the HOST's coming events, the next one first -/
  input : List HostEvent
  /-- the response words delivered so far, the oldest first (30_encoding.md rule R93) -/
  out : List Word
  deriving DecidableEq, Repr

/-- The state right after a reset with `ALG_SEL = algSel` (70_reset_and_hazards.md rules R300, R301), with no HOST event
pending and no response delivered. -/
def State.resetWith (algSel : BitVec 4) : State where
  sel := algSel
  rej := rejOfStrap algSel
  err := errOfStrap algSel
  eng := engineOfStrap algSel
  inner := engineOfStrap algSel
  outer := engineOfStrap algSel
  hphase := .noKey
  kbuf := kbufOfStrap algSel
  klen := 0
  input := []
  out := []

/-- The machine right after reset. The strap value is the model's (log 1). -/
def State.reset : State := State.resetWith Config.resetStrap

end Sys2Proof.Machine
end

