-- ==== Sys2Proof/Machine/Flags.lean ====
section
/-! DEFINITION. The sticky fault register, the status codes and the response word: 10_state.md rules R31 to R33, R42,
30_encoding.md rules R91, R92, 60_exceptions.md rules R270, R274. The datapath has no condition codes (10_state.md rule
R32). -/

namespace Sys2Proof.Machine

/-- The code of a fault, which is also the status code of the response (60_exceptions.md rule R270, 30_encoding.md rule
R92). -/
def causeCode : Cause → Byte
  | .alg => 0x01
  | .cmd => 0x02
  | .state => 0x03
  | .len => 0x04
  | .idx => 0x05

/-- The number of the ERR bit of a fault (60_exceptions.md rule R270, 10_state.md rule R33). -/
def causeBit : Cause → Nat
  | .alg => 0
  | .cmd => 1
  | .state => 2
  | .len => 3
  | .idx => 4

/-- ERR with the sticky bit of a fault set; the other bits as they were (60_exceptions.md rule R274 (2)). -/
def setErrBit (err : BitVec 5) (c : Cause) : BitVec 5 := err ||| BitVec.ofNat 5 (2 ^ causeBit c)

/-- A response word: `status` in bits [15:8], `data` in bits [7:0] (30_encoding.md rule R91). -/
def responseWord (status data : Byte) : Word := status ++ data

/-- The response of an executed command: status OK (30_encoding.md rules R91, R92). -/
def okWord (data : Byte) : Word := responseWord 0x00 data

/-- The response of a refused command: the code of the fault and data 0 (60_exceptions.md rule R274 (3)). -/
def refusedWord (c : Cause) : Word := responseWord (causeCode c) 0x00

/-- The code of a phase (10_state.md rule R31). -/
def phaseCode : Phase → Byte
  | .uninit => 0
  | .ready => 1
  | .final => 2

/-- The code of a wrapper phase (10_state.md rule R42). -/
def hphaseCode : HPhase → Byte
  | .noKey => 0
  | .keying => 1
  | .keyed => 2
  | .msg => 3
  | .done => 4

end Sys2Proof.Machine
end

