-- ==== Sys2Proof/Machine/Rom.lean ====
section
/-! DEFINITION. The constant ROM of the CORE (20_memory.md rules R62, R63): every table the compression functions and
`eng_init` read. No command writes them and reset does not change them, so they are compile-time constants. -/

namespace Sys2Proof.Machine.Rom

/-- ROM.IV_MD, the initial A, B, C, D of MD4 and MD5 (42_md_family.md rule R171). -/
def ivMd : List W32 :=
  [0x67452301, 0xefcdab89, 0x98badcfe, 0x10325476]

/-- The rows of the table of ROM.MD5_K: row r holds entries 4r to 4r+3 (42_md_family.md rule R173). -/
def md5KRows : List (List W32) :=
  [[0xd76aa478, 0xe8c7b756, 0x242070db, 0xc1bdceee],
   [0xf57c0faf, 0x4787c62a, 0xa8304613, 0xfd469501],
   [0x698098d8, 0x8b44f7af, 0xffff5bb1, 0x895cd7be],
   [0x6b901122, 0xfd987193, 0xa679438e, 0x49b40821],
   [0xf61e2562, 0xc040b340, 0x265e5a51, 0xe9b6c7aa],
   [0xd62f105d, 0x02441453, 0xd8a1e681, 0xe7d3fbc8],
   [0x21e1cde6, 0xc33707d6, 0xf4d50d87, 0x455a14ed],
   [0xa9e3e905, 0xfcefa3f8, 0x676f02d9, 0x8d2a4c8a],
   [0xfffa3942, 0x8771f681, 0x6d9d6122, 0xfde5380c],
   [0xa4beea44, 0x4bdecfa9, 0xf6bb4b60, 0xbebfbc70],
   [0x289b7ec6, 0xeaa127fa, 0xd4ef3085, 0x04881d05],
   [0xd9d4d039, 0xe6db99e5, 0x1fa27cf8, 0xc4ac5665],
   [0xf4292244, 0x432aff97, 0xab9423a7, 0xfc93a039],
   [0x655b59c3, 0x8f0ccc92, 0xffeff47d, 0x85845dd1],
   [0x6fa87e4f, 0xfe2ce6e0, 0xa3014314, 0x4e0811a1],
   [0xf7537e82, 0xbd3af235, 0x2ad7d2bb, 0xeb86d391]]

/-- ROM.MD5_K, the additive constants of MD5: its rows one after the other (42_md_family.md rule R173). -/
def md5K : List W32 := md5KRows.flatten

/-- ROM.MD5_S, the rotation amounts of MD5 (42_md_family.md rule R174). -/
def md5S : List Nat :=
  [7, 12, 17, 22, 7, 12, 17, 22, 7, 12, 17, 22, 7, 12, 17, 22] ++
  [5, 9, 14, 20, 5, 9, 14, 20, 5, 9, 14, 20, 5, 9, 14, 20] ++
  [4, 11, 16, 23, 4, 11, 16, 23, 4, 11, 16, 23, 4, 11, 16, 23] ++
  [6, 10, 15, 21, 6, 10, 15, 21, 6, 10, 15, 21, 6, 10, 15, 21]

/-- ROM.MD5_G, the message word index of each MD5 step (42_md_family.md rule R174). -/
def md5G : List Nat :=
  [0, 1, 2, 3, 4, 5, 6, 7, 8, 9, 10, 11, 12, 13, 14, 15] ++
  [1, 6, 11, 0, 5, 10, 15, 4, 9, 14, 3, 8, 13, 2, 7, 12] ++
  [5, 8, 11, 14, 1, 4, 7, 10, 13, 0, 3, 6, 9, 12, 15, 2] ++
  [0, 7, 14, 5, 12, 3, 10, 1, 8, 15, 6, 13, 4, 11, 2, 9]

/-- ROM.MD4_K, one constant per MD4 stage (42_md_family.md rule R180). -/
def md4K : List W32 :=
  [0x00000000, 0x5a827999, 0x6ed9eba1]

/-- ROM.MD4_S, the rotation amounts of MD4 (42_md_family.md rule R181). -/
def md4S : List Nat :=
  [3, 7, 11, 19, 3, 7, 11, 19, 3, 7, 11, 19, 3, 7, 11, 19] ++
  [3, 5, 9, 13, 3, 5, 9, 13, 3, 5, 9, 13, 3, 5, 9, 13] ++
  [3, 9, 11, 15, 3, 9, 11, 15, 3, 9, 11, 15, 3, 9, 11, 15]

/-- ROM.MD4_G, the message word index of each MD4 step (42_md_family.md rule R181). -/
def md4G : List Nat :=
  [0, 1, 2, 3, 4, 5, 6, 7, 8, 9, 10, 11, 12, 13, 14, 15] ++
  [0, 4, 8, 12, 1, 5, 9, 13, 2, 6, 10, 14, 3, 7, 11, 15] ++
  [0, 8, 4, 12, 2, 10, 6, 14, 1, 9, 5, 13, 3, 11, 7, 15]

/-- Rows 0x00 to 0x30 of ROM.MD2_S (42_md_family.md rule R188). -/
def md2SRows0 : List (List Byte) :=
  [[0x29, 0x2e, 0x43, 0xc9, 0xa2, 0xd8, 0x7c, 0x01, 0x3d, 0x36, 0x54, 0xa1, 0xec, 0xf0, 0x06, 0x13],
   [0x62, 0xa7, 0x05, 0xf3, 0xc0, 0xc7, 0x73, 0x8c, 0x98, 0x93, 0x2b, 0xd9, 0xbc, 0x4c, 0x82, 0xca],
   [0x1e, 0x9b, 0x57, 0x3c, 0xfd, 0xd4, 0xe0, 0x16, 0x67, 0x42, 0x6f, 0x18, 0x8a, 0x17, 0xe5, 0x12],
   [0xbe, 0x4e, 0xc4, 0xd6, 0xda, 0x9e, 0xde, 0x49, 0xa0, 0xfb, 0xf5, 0x8e, 0xbb, 0x2f, 0xee, 0x7a]]

/-- Rows 0x40 to 0x70 of ROM.MD2_S (42_md_family.md rule R188). -/
def md2SRows1 : List (List Byte) :=
  [[0xa9, 0x68, 0x79, 0x91, 0x15, 0xb2, 0x07, 0x3f, 0x94, 0xc2, 0x10, 0x89, 0x0b, 0x22, 0x5f, 0x21],
   [0x80, 0x7f, 0x5d, 0x9a, 0x5a, 0x90, 0x32, 0x27, 0x35, 0x3e, 0xcc, 0xe7, 0xbf, 0xf7, 0x97, 0x03],
   [0xff, 0x19, 0x30, 0xb3, 0x48, 0xa5, 0xb5, 0xd1, 0xd7, 0x5e, 0x92, 0x2a, 0xac, 0x56, 0xaa, 0xc6],
   [0x4f, 0xb8, 0x38, 0xd2, 0x96, 0xa4, 0x7d, 0xb6, 0x76, 0xfc, 0x6b, 0xe2, 0x9c, 0x74, 0x04, 0xf1]]

/-- Rows 0x80 to 0xb0 of ROM.MD2_S (42_md_family.md rule R188). -/
def md2SRows2 : List (List Byte) :=
  [[0x45, 0x9d, 0x70, 0x59, 0x64, 0x71, 0x87, 0x20, 0x86, 0x5b, 0xcf, 0x65, 0xe6, 0x2d, 0xa8, 0x02],
   [0x1b, 0x60, 0x25, 0xad, 0xae, 0xb0, 0xb9, 0xf6, 0x1c, 0x46, 0x61, 0x69, 0x34, 0x40, 0x7e, 0x0f],
   [0x55, 0x47, 0xa3, 0x23, 0xdd, 0x51, 0xaf, 0x3a, 0xc3, 0x5c, 0xf9, 0xce, 0xba, 0xc5, 0xea, 0x26],
   [0x2c, 0x53, 0x0d, 0x6e, 0x85, 0x28, 0x84, 0x09, 0xd3, 0xdf, 0xcd, 0xf4, 0x41, 0x81, 0x4d, 0x52]]

/-- Rows 0xc0 to 0xf0 of ROM.MD2_S (42_md_family.md rule R188). -/
def md2SRows3 : List (List Byte) :=
  [[0x6a, 0xdc, 0x37, 0xc8, 0x6c, 0xc1, 0xab, 0xfa, 0x24, 0xe1, 0x7b, 0x08, 0x0c, 0xbd, 0xb1, 0x4a],
   [0x78, 0x88, 0x95, 0x8b, 0xe3, 0x63, 0xe8, 0x6d, 0xe9, 0xcb, 0xd5, 0xfe, 0x3b, 0x00, 0x1d, 0x39],
   [0xf2, 0xef, 0xb7, 0x0e, 0x66, 0x58, 0xd0, 0xe4, 0xa6, 0x77, 0x72, 0xf8, 0xeb, 0x75, 0x4b, 0x0a],
   [0x31, 0x44, 0x50, 0xb4, 0x8f, 0xed, 0x1f, 0x1a, 0xdb, 0x99, 0x8d, 0x33, 0x9f, 0x11, 0x83, 0x14]]

/-- ROM.MD2_S as the sixteen rows of sixteen entries rule R188 prints. -/
def md2Rows : List (List Byte) :=
  md2SRows0 ++ md2SRows1 ++ md2SRows2 ++ md2SRows3

/-- ROM.MD2_S[t], the S-box of MD2: row `t / 16`, column `t mod 16` (42_md_family.md rule R188). -/
def md2S (t : Byte) : Byte :=
  (md2Rows.getD (t.toNat / 16) []).getD (t.toNat % 16) 0

/-- ROM.IV_SHA1 (43_sha1.md rule R201). -/
def ivSha1 : List W32 :=
  [0x67452301, 0xefcdab89, 0x98badcfe, 0x10325476, 0xc3d2e1f0]

/-- ROM.SHA1_K, one constant per SHA-1 stage (43_sha1.md rule R203). -/
def sha1K : List W32 :=
  [0x5a827999, 0x6ed9eba1, 0x8f1bbcdc, 0xca62c1d6]

/-- ROM.IV_224 (44_sha2_32.md rule R211). -/
def iv224 : List W32 :=
  [0xc1059ed8, 0x367cd507, 0x3070dd17, 0xf70e5939, 0xffc00b31, 0x68581511, 0x64f98fa7, 0xbefa4fa4]

/-- ROM.IV_256 (44_sha2_32.md rule R212). -/
def iv256 : List W32 :=
  [0x6a09e667, 0xbb67ae85, 0x3c6ef372, 0xa54ff53a, 0x510e527f, 0x9b05688c, 0x1f83d9ab, 0x5be0cd19]

/-- The rows of the table of ROM.K256: row r holds entries 4r to 4r+3 (44_sha2_32.md rule R213). -/
def k256Rows : List (List W32) :=
  [[0x428a2f98, 0x71374491, 0xb5c0fbcf, 0xe9b5dba5],
   [0x3956c25b, 0x59f111f1, 0x923f82a4, 0xab1c5ed5],
   [0xd807aa98, 0x12835b01, 0x243185be, 0x550c7dc3],
   [0x72be5d74, 0x80deb1fe, 0x9bdc06a7, 0xc19bf174],
   [0xe49b69c1, 0xefbe4786, 0x0fc19dc6, 0x240ca1cc],
   [0x2de92c6f, 0x4a7484aa, 0x5cb0a9dc, 0x76f988da],
   [0x983e5152, 0xa831c66d, 0xb00327c8, 0xbf597fc7],
   [0xc6e00bf3, 0xd5a79147, 0x06ca6351, 0x14292967],
   [0x27b70a85, 0x2e1b2138, 0x4d2c6dfc, 0x53380d13],
   [0x650a7354, 0x766a0abb, 0x81c2c92e, 0x92722c85],
   [0xa2bfe8a1, 0xa81a664b, 0xc24b8b70, 0xc76c51a3],
   [0xd192e819, 0xd6990624, 0xf40e3585, 0x106aa070],
   [0x19a4c116, 0x1e376c08, 0x2748774c, 0x34b0bcb5],
   [0x391c0cb3, 0x4ed8aa4a, 0x5b9cca4f, 0x682e6ff3],
   [0x748f82ee, 0x78a5636f, 0x84c87814, 0x8cc70208],
   [0x90befffa, 0xa4506ceb, 0xbef9a3f7, 0xc67178f2]]

/-- ROM.K256, the round constants of SHA-224 and SHA-256: its rows one after the other (44_sha2_32.md rule R213). -/
def k256 : List W32 := k256Rows.flatten

/-- ROM.IV_384 (45_sha2_64.md rule R226). -/
def iv384 : List W64 :=
  [0xcbbb9d5dc1059ed8, 0x629a292a367cd507, 0x9159015a3070dd17, 0x152fecd8f70e5939,
   0x67332667ffc00b31, 0x8eb44a8768581511, 0xdb0c2e0d64f98fa7, 0x47b5481dbefa4fa4]

/-- ROM.IV_512 (45_sha2_64.md rule R227). -/
def iv512 : List W64 :=
  [0x6a09e667f3bcc908, 0xbb67ae8584caa73b, 0x3c6ef372fe94f82b, 0xa54ff53a5f1d36f1,
   0x510e527fade682d1, 0x9b05688c2b3e6c1f, 0x1f83d9abfb41bd6b, 0x5be0cd19137e2179]

/-- ROM.IV_512_224 (45_sha2_64.md rule R228). -/
def iv512_224 : List W64 :=
  [0x8c3d37c819544da2, 0x73e1996689dcd4d6, 0x1dfab7ae32ff9c82, 0x679dd514582f9fcf,
   0x0f6d2b697bd44da8, 0x77e36f7304c48942, 0x3f9d85a86a1d36c8, 0x1112e6ad91d692a1]

/-- ROM.IV_512_256 (45_sha2_64.md rule R229). -/
def iv512_256 : List W64 :=
  [0x22312194fc2bf72c, 0x9f555fa3c84c64c2, 0x2393b86b6f53b151, 0x963877195940eabd,
   0x96283ee2a88effe3, 0xbe5e1e2553863992, 0x2b0199fc2c85b8aa, 0x0eb72ddc81c52ca2]

/-- The rows of the table of ROM.K512: row r holds entries 2r and 2r+1 (45_sha2_64.md rule R230). -/
def k512Rows : List (List W64) :=
  [[0x428a2f98d728ae22, 0x7137449123ef65cd],
   [0xb5c0fbcfec4d3b2f, 0xe9b5dba58189dbbc],
   [0x3956c25bf348b538, 0x59f111f1b605d019],
   [0x923f82a4af194f9b, 0xab1c5ed5da6d8118],
   [0xd807aa98a3030242, 0x12835b0145706fbe],
   [0x243185be4ee4b28c, 0x550c7dc3d5ffb4e2],
   [0x72be5d74f27b896f, 0x80deb1fe3b1696b1],
   [0x9bdc06a725c71235, 0xc19bf174cf692694],
   [0xe49b69c19ef14ad2, 0xefbe4786384f25e3],
   [0x0fc19dc68b8cd5b5, 0x240ca1cc77ac9c65],
   [0x2de92c6f592b0275, 0x4a7484aa6ea6e483],
   [0x5cb0a9dcbd41fbd4, 0x76f988da831153b5],
   [0x983e5152ee66dfab, 0xa831c66d2db43210],
   [0xb00327c898fb213f, 0xbf597fc7beef0ee4],
   [0xc6e00bf33da88fc2, 0xd5a79147930aa725],
   [0x06ca6351e003826f, 0x142929670a0e6e70],
   [0x27b70a8546d22ffc, 0x2e1b21385c26c926],
   [0x4d2c6dfc5ac42aed, 0x53380d139d95b3df],
   [0x650a73548baf63de, 0x766a0abb3c77b2a8],
   [0x81c2c92e47edaee6, 0x92722c851482353b]] ++
  [[0xa2bfe8a14cf10364, 0xa81a664bbc423001],
   [0xc24b8b70d0f89791, 0xc76c51a30654be30],
   [0xd192e819d6ef5218, 0xd69906245565a910],
   [0xf40e35855771202a, 0x106aa07032bbd1b8],
   [0x19a4c116b8d2d0c8, 0x1e376c085141ab53],
   [0x2748774cdf8eeb99, 0x34b0bcb5e19b48a8],
   [0x391c0cb3c5c95a63, 0x4ed8aa4ae3418acb],
   [0x5b9cca4f7763e373, 0x682e6ff3d6b2b8a3],
   [0x748f82ee5defb2fc, 0x78a5636f43172f60],
   [0x84c87814a1f0ab72, 0x8cc702081a6439ec],
   [0x90befffa23631e28, 0xa4506cebde82bde9],
   [0xbef9a3f7b2c67915, 0xc67178f2e372532b],
   [0xca273eceea26619c, 0xd186b8c721c0c207],
   [0xeada7dd6cde0eb1e, 0xf57d4f7fee6ed178],
   [0x06f067aa72176fba, 0x0a637dc5a2c898a6],
   [0x113f9804bef90dae, 0x1b710b35131c471b],
   [0x28db77f523047d84, 0x32caab7b40c72493],
   [0x3c9ebe0a15c9bebc, 0x431d67c49c100d4c],
   [0x4cc5d4becb3e42b6, 0x597f299cfc657e2a],
   [0x5fcb6fab3ad6faec, 0x6c44198c4a475817]]

/-- ROM.K512, the round constants of the 64-bit family: its rows one after the other (45_sha2_64.md rule R230). -/
def k512 : List W64 := k512Rows.flatten

end Sys2Proof.Machine.Rom
end

