-- ==== Sys2Proof/Machine/Md.lean ====
section
/-! DEFINITION. The MD-family compression functions: 42_md_family.md rules R170 to R190. -/

namespace Sys2Proof.Machine

/-- The round variables a, b, c, d of MD4 and MD5 (42_md_family.md rule R170). -/
structure Vars4 where
  a : W32
  b : W32
  c : W32
  d : W32
  deriving DecidableEq, Repr

/-- MD5's F (42_md_family.md rule R172). -/
def md5F (x y z : W32) : W32 := (x &&& y) ||| (~~~x &&& z)

/-- MD5's G, a selection (42_md_family.md rules R172, R179). -/
def md5G (x y z : W32) : W32 := (x &&& z) ||| (y &&& ~~~z)

/-- MD5's H (42_md_family.md rule R172). -/
def md5H (x y z : W32) : W32 := x ^^^ (y ^^^ z)

/-- MD5's I (42_md_family.md rule R172). -/
def md5I (x y z : W32) : W32 := y ^^^ (x ||| ~~~z)

/-- The auxiliary function of MD5 step i, by stage (42_md_family.md rules R172, R175). -/
def md5Aux (i : Nat) (x y z : W32) : W32 :=
  if i ≤ 15 then md5F x y z else if i ≤ 31 then md5G x y z else if i ≤ 47 then md5H x y z else md5I x y z

/-- Step i of MD5 over the message words X (42_md_family.md rule R175). -/
def md5Step (x : List W32) (v : Vars4) (i : Nat) : Vars4 :=
  let f := md5Aux i v.b v.c v.d
  let t := v.a + f + x.getD (Rom.md5G.getD i 0) 0 + Rom.md5K.getD i 0
  let bn := v.b + t.rotateLeft (Rom.md5S.getD i 0)
  ⟨v.d, bn, v.b, v.c⟩

/-- The round variables loaded from the state words H[0..3]. -/
def loadVars4 (h : List W32) : Vars4 := ⟨h.getD 0 0, h.getD 1 0, h.getD 2 0, h.getD 3 0⟩

/-- The feed-forward addition of the old state (42_md_family.md rule R170). -/
def feedForward4 (h : List W32) (v : Vars4) : List W32 :=
  [h.getD 0 0 + v.a, h.getD 1 0 + v.b, h.getD 2 0 + v.c, h.getD 3 0 + v.d]

/-- `compress_md5(H, blk)` (42_md_family.md rule R175). -/
def compressMd5 (h : List W32) (blk : List Byte) : List W32 :=
  feedForward4 h ((List.range 64).foldl (md5Step (leWords32 blk)) (loadVars4 h))

/-- MD4's F (42_md_family.md rule R178). -/
def md4F (x y z : W32) : W32 := (x &&& y) ||| (~~~x &&& z)

/-- MD4's G, the majority (42_md_family.md rules R178, R179). -/
def md4G (x y z : W32) : W32 := (x &&& y) ||| ((x &&& z) ||| (y &&& z))

/-- MD4's H (42_md_family.md rule R178). -/
def md4H (x y z : W32) : W32 := x ^^^ (y ^^^ z)

/-- The auxiliary function of MD4 step i, by stage (42_md_family.md rules R178, R182). -/
def md4Aux (i : Nat) (x y z : W32) : W32 :=
  if i ≤ 15 then md4F x y z else if i ≤ 31 then md4G x y z else md4H x y z

/-- Step i of MD4 over the message words X (42_md_family.md rule R182): the rotated sum replaces b. -/
def md4Step (x : List W32) (v : Vars4) (i : Nat) : Vars4 :=
  let f := md4Aux i v.b v.c v.d
  let t := v.a + f + x.getD (Rom.md4G.getD i 0) 0 + Rom.md4K.getD (i / 16) 0
  let bn := t.rotateLeft (Rom.md4S.getD i 0)
  ⟨v.d, bn, v.b, v.c⟩

/-- `compress_md4(H, blk)` (42_md_family.md rule R182). -/
def compressMd4 (h : List W32) (blk : List Byte) : List W32 :=
  feedForward4 h ((List.range 48).foldl (md4Step (leWords32 blk)) (loadVars4 h))

/-- One pass of the MD2 S-box over the state bytes: each new byte is the next t (42_md_family.md rule R190, inner loop).
Answers the new bytes and the t that is left. -/
def md2Pass : List Byte → Byte → List Byte × Byte
  | [], t => ([], t)
  | x :: xs, t =>
    let x' := x ^^^ Rom.md2S t
    let r := md2Pass xs x'
    (x' :: r.1, r.2)

/-- Pass j of the state update: the inner loop, then `t <- (t + j) mod 256` (42_md_family.md rule R190). -/
def md2Round (v : List Byte × Byte) (j : Nat) : List Byte × Byte :=
  let r := md2Pass v.1 v.2
  (r.1, r.2 + BitVec.ofNat 8 j)

/-- The checksum update: `C[j] <- C[j] xor S[blk[j] xor L]; L <- C[j]` (42_md_family.md rule R190). -/
def md2Checksum : List Byte → List Byte → Byte → List Byte
  | c :: cs, m :: ms, l =>
    let c' := c ^^^ Rom.md2S (m ^^^ l)
    c' :: md2Checksum cs ms c'
  | cs, _, _ => cs

/-- The 48 bytes the passes run over: X[0..15], the block, their exclusive-or (42_md_family.md rule R190, first loop). -/
def md2Load (x blk : List Byte) : List Byte :=
  x.take 16 ++ blk.take 16 ++ List.zipWith (· ^^^ ·) (x.take 16) (blk.take 16)

/-- `compress_md2(X, C, blk)` (42_md_family.md rule R190). -/
def compressMd2 (x c blk : List Byte) : List Byte × List Byte :=
  (((List.range 18).foldl md2Round (md2Load x blk, 0)).1, md2Checksum c blk (c.getD 15 0))

end Sys2Proof.Machine
end

