-- ==== Sys2Proof/Machine/Padding.lean ====
section
/-! DEFINITION. The padding strategies: 41_padding_and_digest.md rules R151 to R155. `m` is the buffered part of the
message, `l` the bit count BITLEN. -/

namespace Sys2Proof.Machine

/-- The layout of the nine algorithms other than MD2: the byte 0x80, zeros, the length field, so that the whole ends at a
block boundary (41_padding_and_digest.md rule R151). `k` is B - LF - 1. -/
def markTail (B k : Nat) (m field : List Byte) : List Byte :=
  m ++ [0x80] ++ rep 0x00 ((k + B - m.length) % B) ++ field

/-- `pad_tail` of MD4 and MD5 (41_padding_and_digest.md rule R152). -/
def padTailMd (m : List Byte) (l : Nat) : List Byte := markTail 64 55 m (leBytes 8 l)

/-- `pad_tail` of SHA1, SHA2_224 and SHA2_256 (41_padding_and_digest.md rule R153). -/
def padTailSha32 (m : List Byte) (l : Nat) : List Byte := markTail 64 55 m (beBytes 8 l)

/-- `pad_tail` of the 64-bit family (41_padding_and_digest.md rule R154). -/
def padTailSha64 (m : List Byte) (l : Nat) : List Byte := markTail 128 111 m (beBytes 16 l)

/-- `pad_tail` of MD2: p bytes of value p, p = 16 - n (41_padding_and_digest.md rule R155). -/
def padTailMd2 (m : List Byte) : List Byte :=
  m ++ rep (BitVec.ofNat 8 (16 - m.length)) (16 - m.length)

/-- `pad_tail(ALG, m, L)` (41_padding_and_digest.md rules R150, R151). -/
def padTail (a : Alg) (m : List Byte) (l : Nat) : List Byte :=
  match a with
  | .md2 => padTailMd2 m
  | .md4 | .md5 => padTailMd m l
  | .sha1 | .sha2_224 | .sha2_256 => padTailSha32 m l
  | .sha2_384 | .sha2_512 | .sha2_512_224 | .sha2_512_256 => padTailSha64 m l

/-- The length field of the padding: LF bytes in the byte order of the algorithm, none for MD2 (41_padding_and_digest.md
rule R151, 20_memory.md rules R65 to R68). -/
def lengthField (a : Alg) (l : Nat) : List Byte :=
  match a.BO with
  | .bytesOnly => []
  | .little => leBytes a.LF l
  | .big => beBytes a.LF l

/-- The blocks a byte sequence is cut into: `s[k*B .. k*B + B-1]`, k = 0 .. len(s)/B - 1 (41_padding_and_digest.md rule
R150). -/
def blocksOf (B : Nat) (s : List Byte) : List (List Byte) :=
  (List.range (s.length / B)).map fun k => slice s (k * B) B

end Sys2Proof.Machine
end

