-- ==== Sys2Proof/Machine/Sha.lean ====
section
/-! DEFINITION. The SHA compression functions: SHA-1 (43_sha1.md), SHA-2 with 32-bit words (44_sha2_32.md) and SHA-2 with
64-bit words (45_sha2_64.md). A schedule is built newest word first, so that `W[j-n]` is entry `n - 1` of the list. -/

namespace Sys2Proof.Machine

/-- `Ch` of the SHA-2 family, on W-bit words (44_sha2_32.md rule R214, 45_sha2_64.md rule R232). -/
def ch {w : Nat} (x y z : BitVec w) : BitVec w := (x &&& y) ^^^ (~~~x &&& z)

/-- `Maj` of the SHA-2 family, on W-bit words (44_sha2_32.md rule R214, 45_sha2_64.md rule R232). -/
def maj {w : Nat} (x y z : BitVec w) : BitVec w := (x &&& y) ^^^ ((x &&& z) ^^^ (y &&& z))

/-- `Ch` of SHA-1 (43_sha1.md rule R202). -/
def sha1Ch (x y z : W32) : W32 := (x &&& y) ||| (~~~x &&& z)

/-- `Maj` of SHA-1 (43_sha1.md rule R202). -/
def sha1Maj (x y z : W32) : W32 := (x &&& y) ||| ((x &&& z) ||| (y &&& z))

/-- `Parity` of SHA-1 (43_sha1.md rule R202). -/
def sha1Parity (x y z : W32) : W32 := x ^^^ (y ^^^ z)

/-- The round variables a, b, c, d, e of SHA-1 (43_sha1.md rule R204). -/
structure Vars5 where
  a : W32
  b : W32
  c : W32
  d : W32
  e : W32
  deriving DecidableEq, Repr

/-- The round function of SHA-1 round i, by stage (43_sha1.md rules R202, R204). -/
def sha1Aux (i : Nat) (x y z : W32) : W32 :=
  if i / 20 = 0 then sha1Ch x y z else if i / 20 = 2 then sha1Maj x y z else sha1Parity x y z

/-- The next word of the SHA-1 schedule from the words before it, newest first (43_sha1.md rule R204). -/
def sha1Next (w : List W32) : W32 :=
  (w.getD 2 0 ^^^ w.getD 7 0 ^^^ w.getD 13 0 ^^^ w.getD 15 0).rotateLeft 1

/-- The SHA-1 schedule W[0..79] (43_sha1.md rule R204). -/
def sha1Schedule (blk : List Byte) : List W32 :=
  ((List.range 64).foldl (fun w _ => sha1Next w :: w) (beWords32 blk).reverse).reverse

/-- Round i of SHA-1 (43_sha1.md rule R204). -/
def sha1Round (w : List W32) (v : Vars5) (i : Nat) : Vars5 :=
  let f := sha1Aux i v.b v.c v.d
  let t := v.a.rotateLeft 5 + f + v.e + Rom.sha1K.getD (i / 20) 0 + w.getD i 0
  ⟨t, v.a, v.b.rotateLeft 30, v.c, v.d⟩

/-- `compress_sha1(H, blk)` (43_sha1.md rule R204). -/
def compressSha1 (h : List W32) (blk : List Byte) : List W32 :=
  let v0 : Vars5 := ⟨h.getD 0 0, h.getD 1 0, h.getD 2 0, h.getD 3 0, h.getD 4 0⟩
  let v := (List.range 80).foldl (sha1Round (sha1Schedule blk)) v0
  [h.getD 0 0 + v.a, h.getD 1 0 + v.b, h.getD 2 0 + v.c, h.getD 3 0 + v.d, h.getD 4 0 + v.e]

/-- The round variables a to h of the SHA-2 family, of either word width (44_sha2_32.md rule R216, 45_sha2_64.md rule
R231). -/
structure Vars8 (w : Nat) where
  a : BitVec w
  b : BitVec w
  c : BitVec w
  d : BitVec w
  e : BitVec w
  f : BitVec w
  g : BitVec w
  h : BitVec w
  deriving DecidableEq, Repr

/-- The round variables loaded from the state words H[0..7]. -/
def loadVars8 {w : Nat} (h : List (BitVec w)) : Vars8 w :=
  ⟨h.getD 0 0, h.getD 1 0, h.getD 2 0, h.getD 3 0, h.getD 4 0, h.getD 5 0, h.getD 6 0, h.getD 7 0⟩

/-- The feed-forward addition of the old state, all eight words (44_sha2_32.md rule R216, 45_sha2_64.md rule R231). -/
def feedForward8 {w : Nat} (h : List (BitVec w)) (v : Vars8 w) : List (BitVec w) :=
  [h.getD 0 0 + v.a, h.getD 1 0 + v.b, h.getD 2 0 + v.c, h.getD 3 0 + v.d,
   h.getD 4 0 + v.e, h.getD 5 0 + v.f, h.getD 6 0 + v.g, h.getD 7 0 + v.h]

/-- The new round variables of a SHA-2 round from T1 and T2 (44_sha2_32.md rule R216, 45_sha2_64.md rule R231). -/
def rotateVars8 {w : Nat} (v : Vars8 w) (t1 t2 : BitVec w) : Vars8 w :=
  ⟨t1 + t2, v.a, v.b, v.c, v.d + t1, v.e, v.f, v.g⟩

/-- BSIG0 on 32-bit words (44_sha2_32.md rule R214). -/
def bsig0W32 (x : W32) : W32 := x.rotateRight 2 ^^^ (x.rotateRight 13 ^^^ x.rotateRight 22)

/-- BSIG1 on 32-bit words (44_sha2_32.md rule R214). -/
def bsig1W32 (x : W32) : W32 := x.rotateRight 6 ^^^ (x.rotateRight 11 ^^^ x.rotateRight 25)

/-- SSIG0 on 32-bit words (44_sha2_32.md rule R214). -/
def ssig0W32 (x : W32) : W32 := x.rotateRight 7 ^^^ (x.rotateRight 18 ^^^ x >>> 3)

/-- SSIG1 on 32-bit words (44_sha2_32.md rule R214). -/
def ssig1W32 (x : W32) : W32 := x.rotateRight 17 ^^^ (x.rotateRight 19 ^^^ x >>> 10)

/-- The next word of the 32-bit schedule from the words before it, newest first (44_sha2_32.md rule R215). -/
def sha256Next (w : List W32) : W32 :=
  ssig1W32 (w.getD 1 0) + w.getD 6 0 + ssig0W32 (w.getD 14 0) + w.getD 15 0

/-- The 32-bit message schedule W[0..63] (44_sha2_32.md rule R215). -/
def sha256Schedule (blk : List Byte) : List W32 :=
  ((List.range 48).foldl (fun w _ => sha256Next w :: w) (beWords32 blk).reverse).reverse

/-- Round i of the 32-bit SHA-2 compression (44_sha2_32.md rule R216). -/
def sha256Round (w : List W32) (v : Vars8 32) (i : Nat) : Vars8 32 :=
  rotateVars8 v (v.h + bsig1W32 v.e + ch v.e v.f v.g + Rom.k256.getD i 0 + w.getD i 0) (bsig0W32 v.a + maj v.a v.b v.c)

/-- `compress_sha256(H, blk)`, shared by SHA2_224 and SHA2_256 (44_sha2_32.md rules R216, R217). -/
def compressSha256 (h : List W32) (blk : List Byte) : List W32 :=
  feedForward8 h ((List.range 64).foldl (sha256Round (sha256Schedule blk)) (loadVars8 h))

/-- BSIG0 on 64-bit words (45_sha2_64.md rule R232). -/
def bsig0W64 (x : W64) : W64 := x.rotateRight 28 ^^^ (x.rotateRight 34 ^^^ x.rotateRight 39)

/-- BSIG1 on 64-bit words (45_sha2_64.md rule R232). -/
def bsig1W64 (x : W64) : W64 := x.rotateRight 14 ^^^ (x.rotateRight 18 ^^^ x.rotateRight 41)

/-- SSIG0 on 64-bit words (45_sha2_64.md rule R232). -/
def ssig0W64 (x : W64) : W64 := x.rotateRight 1 ^^^ (x.rotateRight 8 ^^^ x >>> 7)

/-- SSIG1 on 64-bit words (45_sha2_64.md rule R232). -/
def ssig1W64 (x : W64) : W64 := x.rotateRight 19 ^^^ (x.rotateRight 61 ^^^ x >>> 6)

/-- The next word of the 64-bit schedule from the words before it, newest first (45_sha2_64.md rule R233). -/
def sha512Next (w : List W64) : W64 :=
  ssig1W64 (w.getD 1 0) + w.getD 6 0 + ssig0W64 (w.getD 14 0) + w.getD 15 0

/-- The 64-bit message schedule W[0..79] (45_sha2_64.md rule R233). -/
def sha512Schedule (blk : List Byte) : List W64 :=
  ((List.range 64).foldl (fun w _ => sha512Next w :: w) (beWords64 blk).reverse).reverse

/-- Round i of the 64-bit SHA-2 compression (45_sha2_64.md rule R231). -/
def sha512Round (w : List W64) (v : Vars8 64) (i : Nat) : Vars8 64 :=
  rotateVars8 v (v.h + bsig1W64 v.e + ch v.e v.f v.g + Rom.k512.getD i 0 + w.getD i 0) (bsig0W64 v.a + maj v.a v.b v.c)

/-- `compress_sha512(H, blk)`, shared by the four 64-bit algorithms (45_sha2_64.md rules R231, R234). -/
def compressSha512 (h : List W64) (blk : List Byte) : List W64 :=
  feedForward8 h ((List.range 80).foldl (sha512Round (sha512Schedule blk)) (loadVars8 h))

end Sys2Proof.Machine
end

