-- ==== Sys2Proof/Machine/Ops.lean ====
section
/-! DEFINITION. The shared operations: the updates of State, refusing a command (the spec's fault entry, 60_exceptions.md
rule R274), answering one (30_encoding.md rule R91), taking the HOST's next event, and the engine micro-operations
eng_init, eng_absorb, compress, eng_finalize (00_scope.md rule R12). -/

namespace Sys2Proof.Machine

/-! ### Updates of State, one register each -/

/-- ENG replaced. -/
def State.setEng (s : State) (e : Engine) : State := { s with eng := e }

/-- INNER replaced. -/
def State.setInner (s : State) (e : Engine) : State := { s with inner := e }

/-- OUTER replaced. -/
def State.setOuter (s : State) (e : Engine) : State := { s with outer := e }

/-- HPHASE written. -/
def State.setHphase (s : State) (p : HPhase) : State := { s with hphase := p }

/-- KBUF written. -/
def State.setKbuf (s : State) (k : List Byte) : State := { s with kbuf := k }

/-- KLEN written. -/
def State.setKlen (s : State) (n : Nat) : State := { s with klen := n }

/-- ERR written. -/
def State.setErr (s : State) (e : BitVec 5) : State := { s with err := e }

/-- The HOST's coming events replaced. -/
def State.setInput (s : State) (i : List HostEvent) : State := { s with input := i }

/-- One response word delivered. -/
def State.deliver (s : State) (w : Word) : State := { s with out := s.out ++ [w] }

/-! ### Answering and refusing a command -/

/-- `respond(d)`: the command ends with status OK and data byte d (00_scope.md rule R11, 30_encoding.md rule R91). -/
def respond (d : Byte) (s : State) : Host.Outcome State Fault Refusal := .next (s.deliver (okWord d))

/-- The state after a command refused for the cause `c`: the sticky bit and the response, nothing else
(60_exceptions.md rule R274). -/
def refusedState (c : Cause) (s : State) : State := (s.setErr (setErrBit s.err c)).deliver (refusedWord c)

/-- `raise F`: the command ends at once; the CORE then takes the next command as after a successful one (00_scope.md rule
R11, 60_exceptions.md rule R274 (4)). There is no handler and no return (rule R278). -/
def raise (c : Cause) (s : State) : Host.Outcome State Fault Refusal := .next (refusedState c s)

/-- The configured algorithm: none when ALGR.REJ = 1 (10_state.md rule R21). A state with REJ = 0 and a SEL that names no
algorithm cannot occur (log 9). -/
def configuredAlg (s : State) : Option Alg := if s.rej then none else Alg.ofCode s.sel

/-! ### The HOST's events -/

/-- The HOST's next event, taken from the list, or none when the HOST has sent nothing (70_reset_and_hazards.md rules
R302, R306). -/
def fetch (s : State) : Option (HostEvent × State) :=
  match s.input with
  | [] => none
  | ev :: rest => some (ev, s.setInput rest)

/-- The reset event (70_reset_and_hazards.md rule R300): every register of the CORE as after reset, whatever it held; the
HOST keeps the responses it has been given and the events it is going to send (log 3, log 4). -/
def resetEvent (algSel : BitVec 4) (s : State) : State :=
  { State.resetWith algSel with input := s.input, out := s.out }

/-- A reset asserted while the command `w` executes: the command is aborted, no response is delivered for it, the state is
that of a reset, "whatever the command had done so far" (70_reset_and_hazards.md rule R306). -/
def abortEvent (_w : Word) (algSel : BitVec 4) (s : State) : State := resetEvent algSel s

/-- What a step does when the HOST has sent nothing: the CORE waits, "Nothing runs on its own" (70_reset_and_hazards.md
rule R302). -/
def wait (s : State) : State := s

/-! ### Engine micro-operations -/

/-- The working registers loaded with `ROM.IV[ALG]`, for MD2 with zeros (20_memory.md rule R63, 40_engine_commands.md rule
R121, 42_md_family.md rule R187). -/
def loadIv (a : Alg) (e : Engine) : Engine :=
  match a with
  | .md2 => { e with x := rep 0 48, c := rep 0 16 }
  | .md4 => { e with h32 := Rom.ivMd }
  | .md5 => { e with h32 := Rom.ivMd }
  | .sha1 => { e with h32 := Rom.ivSha1 }
  | .sha2_224 => { e with h32 := Rom.iv224 }
  | .sha2_256 => { e with h32 := Rom.iv256 }
  | .sha2_384 => { e with h64 := Rom.iv384 }
  | .sha2_512 => { e with h64 := Rom.iv512 }
  | .sha2_512_224 => { e with h64 := Rom.iv512_224 }
  | .sha2_512_256 => { e with h64 := Rom.iv512_256 }

/-- `eng_init(e)` (40_engine_commands.md rule R121). DIGEST is not written (10_state.md rule R28). -/
def engInit (a : Alg) (e : Engine) : Engine :=
  { loadIv a e with buf := rep 0 a.B, buflen := 0, bitlen := 0, phase := .ready }

/-- `compress(e, blk)` (40_engine_commands.md rule R124): only the working registers change. -/
def compress (a : Alg) (e : Engine) (blk : List Byte) : Engine :=
  match a with
  | .md2 => { e with x := (compressMd2 e.x e.c blk).1, c := (compressMd2 e.x e.c blk).2 }
  | .md4 => { e with h32 := compressMd4 e.h32 blk }
  | .md5 => { e with h32 := compressMd5 e.h32 blk }
  | .sha1 => { e with h32 := compressSha1 e.h32 blk }
  | .sha2_224 => { e with h32 := compressSha256 e.h32 blk }
  | .sha2_256 => { e with h32 := compressSha256 e.h32 blk }
  | .sha2_384 => { e with h64 := compressSha512 e.h64 blk }
  | .sha2_512 => { e with h64 := compressSha512 e.h64 blk }
  | .sha2_512_224 => { e with h64 := compressSha512 e.h64 blk }
  | .sha2_512_256 => { e with h64 := compressSha512 e.h64 blk }

/-- `len_ok(e)`: `e.BITLEN + 8 <= 2^LW - 1` (40_engine_commands.md rule R125). -/
def lenOk (a : Alg) (e : Engine) : Bool := decide (e.bitlen + 8 ≤ 2 ^ a.LW - 1)

/-- `e.BUF[e.BUFLEN] <- b; e.BITLEN <- e.BITLEN + 8` (40_engine_commands.md rule R123). -/
def storeByte (e : Engine) (b : Byte) : Engine :=
  { e with buf := e.buf.set e.buflen b, bitlen := e.bitlen + 8 }

/-- `eng_absorb(e, b)` (40_engine_commands.md rule R123): the byte that fills the block triggers one compression, of the
block with that byte in it. -/
def engAbsorb (a : Alg) (e : Engine) (b : Byte) : Engine :=
  if e.buflen + 1 = a.B then
    { compress a (storeByte e b) ((storeByte e b).buf.take a.B) with buflen := 0 }
  else
    { storeByte e b with buflen := e.buflen + 1 }

/-- `eng_absorb` of several bytes, in order. -/
def absorbBytes (a : Alg) (e : Engine) (bs : List Byte) : Engine := bs.foldl (engAbsorb a) e

/-- The compressions of a byte sequence, block by block, in order (41_padding_and_digest.md rule R150). -/
def compressBlocks (a : Alg) (e : Engine) (s : List Byte) : Engine := (blocksOf a.B s).foldl (compress a) e

/-- The compression of the checksum block, MD2 only: the block is C as the pad block left it (41_padding_and_digest.md
rules R150, R155). -/
def compressChecksum (a : Alg) (e : Engine) : Engine :=
  match a with
  | .md2 => compress .md2 e (e.c.take 16)
  | .md4 | .md5 | .sha1 | .sha2_224 | .sha2_256 | .sha2_384 | .sha2_512 | .sha2_512_224 | .sha2_512_256 => e

/-- The serialisation of the working registers in index order (41_padding_and_digest.md rule R158). -/
def serialise (a : Alg) (e : Engine) : List Byte :=
  match a with
  | .md2 => e.x.take 16
  | .md4 | .md5 => e.h32.flatMap toLe32
  | .sha1 | .sha2_224 | .sha2_256 => e.h32.flatMap toBe32
  | .sha2_384 | .sha2_512 | .sha2_512_224 | .sha2_512_256 => e.h64.flatMap toBe64

/-- `extract(ALG, e)`: the first DL bytes of the serialisation (41_padding_and_digest.md rule R158). -/
def extract (a : Alg) (e : Engine) : List Byte := (serialise a e).take a.DL

/-- The compressions of `eng_finalize`: the padded tail, then for MD2 the checksum block (41_padding_and_digest.md rule
R150). -/
def compressTail (a : Alg) (e : Engine) : Engine :=
  compressChecksum a (compressBlocks a e (padTail a (e.buf.take e.buflen) e.bitlen))

/-- `eng_finalize(e)` (41_padding_and_digest.md rule R150). BUF and BITLEN keep their values, H (or X, C) the final
chaining value (rule R159, log 11). -/
def engFinalize (a : Alg) (e : Engine) : Engine :=
  { compressTail a e with digest := extract a (compressTail a e), buflen := 0, phase := .final }

end Sys2Proof.Machine
end

