-- ==== Sys2Proof/Machine/Operands.lean ====
section
/-! DEFINITION. The operand forms (30_encoding.md rule R94): `arg` as a message or key byte needs no work; `arg` as a digest
byte index and as a status register number select a byte, or nothing when out of range (20_memory.md rule R61,
60_exceptions.md rule R276). -/

namespace Sys2Proof.Machine

/-- Byte i of DIGEST, none when `i >= DL` (40_engine_commands.md rule R131, 46_hmac.md rule R252). -/
def digestByte (a : Alg) (e : Engine) (i : Byte) : Option Byte :=
  if i.toNat < a.DL then some (e.digest.getD i.toNat 0) else none

/-- ST_ALG: `ALGR.SEL + 128 * ALGR.REJ` (10_state.md rule R35). -/
def stAlg (s : State) : Byte := BitVec.ofNat 8 (s.sel.toNat + 128 * s.rej.toNat)

/-- ST_PHASE: the code of ENG.PHASE (10_state.md rule R36). -/
def stPhase (s : State) : Byte := phaseCode s.eng.phase

/-- ST_HPHASE: the code of HPHASE (10_state.md rule R37). -/
def stHphase (s : State) : Byte := hphaseCode s.hphase

/-- ST_ERR: ERR in bits [4:0], reading does not clear it (10_state.md rule R38). -/
def stErr (s : State) : Byte := s.err.setWidth 8

/-- ST_BLKSZ: B, or 0 when ALGR.REJ = 1 (10_state.md rule R39). -/
def stBlksz (s : State) : Byte :=
  match configuredAlg s with
  | some a => BitVec.ofNat 8 a.B
  | none => 0

/-- ST_DIGLEN: DL, or 0 when ALGR.REJ = 1 (10_state.md rule R40). -/
def stDiglen (s : State) : Byte :=
  match configuredAlg s with
  | some a => BitVec.ofNat 8 a.DL
  | none => 0

/-- Status register n, none when `n >= 6` (10_state.md rule R34). -/
def statusRegister (s : State) (n : Byte) : Option Byte :=
  match n.toNat with
  | 0 => some (stAlg s)
  | 1 => some (stPhase s)
  | 2 => some (stHphase s)
  | 3 => some (stErr s)
  | 4 => some (stBlksz s)
  | 5 => some (stDiglen s)
  | _ => none

end Sys2Proof.Machine
end

