-- ==== Sys2Proof/Machine/EngineCommands.lean ====
section
/-! DEFINITION. The engine commands INIT, UPD, FIN, RDD, RDS: 40_engine_commands.md rules R120, R122, R126, R131, R132. The
order of the tests is the order of each rule's pseudocode. -/

namespace Sys2Proof.Machine

/-- `INIT` (40_engine_commands.md rule R120). -/
def execInit (s : State) : Host.Outcome State Fault Refusal :=
  match configuredAlg s with
  | none => raise .alg s
  | some a => respond 0 (s.setEng (engInit a s.eng))

/-- `UPD b` (40_engine_commands.md rule R122). -/
def execUpd (b : Byte) (s : State) : Host.Outcome State Fault Refusal :=
  match configuredAlg s with
  | none => raise .alg s
  | some a =>
    if s.eng.phase ≠ .ready then raise .state s
    else if lenOk a s.eng = false then raise .len s
    else respond 0 (s.setEng (engAbsorb a s.eng b))

/-- `FIN` (40_engine_commands.md rule R126). -/
def execFin (s : State) : Host.Outcome State Fault Refusal :=
  match configuredAlg s with
  | none => raise .alg s
  | some a =>
    if s.eng.phase ≠ .ready then raise .state s
    else respond 0 (s.setEng (engFinalize a s.eng))

/-- `RDD i` (40_engine_commands.md rule R131). -/
def execRdd (i : Byte) (s : State) : Host.Outcome State Fault Refusal :=
  match configuredAlg s with
  | none => raise .alg s
  | some a =>
    if s.eng.phase ≠ .final then raise .state s
    else
      match digestByte a s.eng i with
      | none => raise .idx s
      | some d => respond d s

/-- `RDS n` (40_engine_commands.md rule R132): never ALG, never STATE. -/
def execRds (n : Byte) (s : State) : Host.Outcome State Fault Refusal :=
  match statusRegister s n with
  | none => raise .idx s
  | some d => respond d s

end Sys2Proof.Machine
end

