-- ==== Sys2Proof/Machine/HmacCommands.lean ====
section
/-! DEFINITION. The HMAC wrapper commands: 46_hmac.md rules R241, R242, R246, R248 to R250, R252. The order of the tests is
the order of each rule's pseudocode. -/

namespace Sys2Proof.Machine

/-- ipad, the byte 0x36 (46_hmac.md rule R240). -/
def ipad : Byte := 0x36

/-- opad, the byte 0x5c (46_hmac.md rule R240). -/
def opad : Byte := 0x5c

/-- `HKINIT` (46_hmac.md rule R241). OUTER is not touched. -/
def execHkinit (s : State) : Host.Outcome State Fault Refusal :=
  match configuredAlg s with
  | none => raise .alg s
  | some a =>
    respond 0 ((((s.setInner (engInit a s.inner)).setKbuf (rep 0x00 a.B)).setKlen 0).setHphase .keying)

/-- KBUF after one more key byte: stored while there is room (46_hmac.md rule R242). -/
def storeKeyByte (a : Alg) (kbuf : List Byte) (klen : Nat) (b : Byte) : List Byte :=
  if klen < a.B then kbuf.set klen b else kbuf

/-- KLEN after one more key byte: saturates at B + 1 (46_hmac.md rule R242). -/
def countKeyByte (a : Alg) (klen : Nat) : Nat := if klen ≤ a.B then klen + 1 else klen

/-- `HKUPD b` (46_hmac.md rule R242). -/
def execHkupd (b : Byte) (s : State) : Host.Outcome State Fault Refusal :=
  match configuredAlg s with
  | none => raise .alg s
  | some a =>
    if s.hphase ≠ .keying then raise .state s
    else if lenOk a s.inner = false then raise .len s
    else
      respond 0 (((s.setInner (engAbsorb a s.inner b)).setKbuf (storeKeyByte a s.kbuf s.klen b)).setKlen
        (countKeyByte a s.klen))

/-- KBUF of a key longer than the block: its digest, then zeros (46_hmac.md rule R246). -/
def digestKey (a : Alg) (e : Engine) : List Byte := e.digest.take a.DL ++ rep 0x00 (a.B - a.DL)

/-- `HKFIN` (46_hmac.md rule R246). -/
def execHkfin (s : State) : Host.Outcome State Fault Refusal :=
  match configuredAlg s with
  | none => raise .alg s
  | some a =>
    if s.hphase ≠ .keying then raise .state s
    else if s.klen > a.B then
      let e := engFinalize a s.inner
      respond 0 (((s.setInner e).setKbuf (digestKey a e)).setHphase .keyed)
    else respond 0 (s.setHphase .keyed)

/-- A complete key is loaded: HPHASE is H_KEYED, H_MSG or H_DONE (46_hmac.md rule R248). -/
def keyLoaded : HPhase → Bool
  | .noKey => false
  | .keying => false
  | .keyed => true
  | .msg => true
  | .done => true

/-- An instance initialised and given the B bytes `KBUF xor pad` (46_hmac.md rules R248, R250). -/
def absorbPad (a : Alg) (e : Engine) (kbuf : List Byte) (pad : Byte) : Engine :=
  absorbBytes a (engInit a e) (xorb (kbuf.take a.B) pad)

/-- `HMINIT` (46_hmac.md rule R248). -/
def execHminit (s : State) : Host.Outcome State Fault Refusal :=
  match configuredAlg s with
  | none => raise .alg s
  | some a =>
    if keyLoaded s.hphase = false then raise .state s
    else respond 0 ((s.setInner (absorbPad a s.inner s.kbuf ipad)).setHphase .msg)

/-- `HMUPD b` (46_hmac.md rule R249). -/
def execHmupd (b : Byte) (s : State) : Host.Outcome State Fault Refusal :=
  match configuredAlg s with
  | none => raise .alg s
  | some a =>
    if s.hphase ≠ .msg then raise .state s
    else if lenOk a s.inner = false then raise .len s
    else respond 0 (s.setInner (engAbsorb a s.inner b))

/-- The outer digest of `HMFIN`: OUTER over the opad block and the inner digest (46_hmac.md rule R250). -/
def outerDigest (a : Alg) (outer inner : Engine) (kbuf : List Byte) : Engine :=
  engFinalize a (absorbBytes a (absorbPad a outer kbuf opad) (inner.digest.take a.DL))

/-- `HMFIN` (46_hmac.md rule R250). -/
def execHmfin (s : State) : Host.Outcome State Fault Refusal :=
  match configuredAlg s with
  | none => raise .alg s
  | some a =>
    if s.hphase ≠ .msg then raise .state s
    else
      let e := engFinalize a s.inner
      respond 0 (((s.setInner e).setOuter (outerDigest a s.outer e s.kbuf)).setHphase .done)

/-- `HRDM i` (46_hmac.md rule R252). -/
def execHrdm (i : Byte) (s : State) : Host.Outcome State Fault Refusal :=
  match configuredAlg s with
  | none => raise .alg s
  | some a =>
    if s.hphase ≠ .done then raise .state s
    else
      match digestByte a s.outer i with
      | none => raise .idx s
      | some d => respond d s

end Sys2Proof.Machine
end

