-- ==== Sys2Proof/Machine/Dispatch.lean ====
section
/-! DEFINITION. The dispatch: one arm per command (30_encoding.md rule R95). -/

namespace Sys2Proof.Machine

/-- The effect of one decoded command. -/
def exec (i : Instr) (s : State) : Host.Outcome State Fault Refusal :=
  match i with
  | .init => Sys2Proof.Machine.execInit s
  | .upd b => Sys2Proof.Machine.execUpd b s
  | .fin => Sys2Proof.Machine.execFin s
  | .rdd k => Sys2Proof.Machine.execRdd k s
  | .rds n => Sys2Proof.Machine.execRds n s
  | .hkinit => Sys2Proof.Machine.execHkinit s
  | .hkupd b => Sys2Proof.Machine.execHkupd b s
  | .hkfin => Sys2Proof.Machine.execHkfin s
  | .hminit => Sys2Proof.Machine.execHminit s
  | .hmupd b => Sys2Proof.Machine.execHmupd b s
  | .hmfin => Sys2Proof.Machine.execHmfin s
  | .hrdm k => Sys2Proof.Machine.execHrdm k s

end Sys2Proof.Machine
end

