-- ==== Sys2Proof/Machine/Step.lean ====
section
/-! DEFINITION. One step of the machine: the HOST's next event, taken and carried out (00_scope.md rule R17,
30_encoding.md rule R93, 70_reset_and_hazards.md rule R306). -/

namespace Sys2Proof.Machine

/-- A command word: a reserved word is refused with CMD before anything else is looked at (60_exceptions.md rule R272); any
other is the command it decodes to. -/
def runWord (w : Word) (s : State) : Host.Outcome State Fault Refusal :=
  match decode w with
  | .error _ => raise .cmd s
  | .ok i => exec i s

/-- One event of the HOST carried out. -/
def runEvent (ev : HostEvent) (s : State) : Host.Outcome State Fault Refusal :=
  match ev with
  | .command w => runWord w s
  | .reset algSel => .next (resetEvent algSel s)
  | .aborted w algSel => .next (abortEvent w algSel s)

/-- One step: the HOST's next event, or waiting when there is none. -/
def step (s : State) : Host.Outcome State Fault Refusal :=
  match fetch s with
  | none => .next (wait s)
  | some (ev, s') => runEvent ev s'

/-- `s` with the command word `w` (the low `nbits` bits) as the HOST's next event, before the events already pending: the
very next step takes and runs it (log 10). -/
def State.withFetchWord (s : State) (nbits w : Nat) : State :=
  s.setInput (.command (tableWord nbits w) :: s.input)

end Sys2Proof.Machine
end

