-- ==== Sys2Proof/Machine/PadFsm.lean ====
section
/-! DEFINITION. The padding FSM of 41_padding_and_digest.md rule R156: the states a hardware realisation walks inside one
`eng_finalize`. Its states and its block are transient (10_state.md rule R45), so they are no part of State; the commands use
`engFinalize`, and a statement says that the two agree. -/

namespace Sys2Proof.Machine

/-- The states of the padding FSM (41_padding_and_digest.md rule R156); `done` is its end. -/
inductive PadState where
  | mark
  | fill
  | spill
  | len
  | csum
  | out
  | done
  deriving DecidableEq, Repr

/-- The FSM at work: its state, the block it fills (only the bytes written so far) and the instance. -/
structure PadFsm where
  st : PadState
  blk : List Byte
  eng : Engine
  deriving DecidableEq, Repr

/-- The marker and fill bytes: 0x80 and zeros, or p and p for MD2 (41_padding_and_digest.md rules R155, R156). -/
def padMarker (a : Alg) (n : Nat) : Byte := if a = .md2 then BitVec.ofNat 8 (16 - n) else 0x80

/-- See `padMarker`. -/
def padFill (a : Alg) (n : Nat) : Byte := if a = .md2 then BitVec.ofNat 8 (16 - n) else 0x00

/-- The field fits in the block that holds n message bytes: `n <= B - LF - 1` (41_padding_and_digest.md rule R156). -/
def fieldFits (a : Alg) (n : Nat) : Bool := decide (n ≤ a.B - a.LF - 1)

/-- One move of the FSM; `n` is the number of buffered bytes (41_padding_and_digest.md rule R156). -/
def padFsmStep (a : Alg) (n : Nat) (f : PadFsm) : PadFsm :=
  match f.st with
  | .mark => { f with st := .fill, blk := f.blk ++ [padMarker a n] }
  | .fill =>
    if fieldFits a n then
      { f with st := .len, blk := f.blk ++ rep (padFill a n) (a.B - a.LF - f.blk.length) }
    else
      { f with st := .spill, blk := f.blk ++ rep (padFill a n) (a.B - f.blk.length) }
  | .spill => { st := .len, blk := rep 0x00 (a.B - a.LF), eng := compress a f.eng f.blk }
  | .len =>
    let blk := f.blk ++ lengthField a f.eng.bitlen
    { st := if a = .md2 then .csum else .out, blk := blk, eng := compress a f.eng blk }
  | .csum => { f with st := .out, eng := compress a f.eng (f.eng.c.take 16) }
  | .out =>
    { f with st := .done, eng := { f.eng with digest := extract a f.eng, buflen := 0, phase := .final } }
  | .done => f

/-- The FSM run from P_MARK to its end: at most six moves (41_padding_and_digest.md rule R156). -/
def padFsmRun (a : Alg) (e : Engine) : PadFsm :=
  (List.range 6).foldl (fun f _ => padFsmStep a e.buflen f) { st := .mark, blk := e.buf.take e.buflen, eng := e }

end Sys2Proof.Machine
end

