-- ==== Sys2Proof/Machine/Pseudo.lean ====
section
/-! DEFINITION. What the HOST does around the CORE, as functions on data: the pseudo-instructions (30_encoding.md rules R100,
R101), the assembler text of a command (rule R99) and the hexadecimal rendering of a byte sequence (00_scope.md rules R14,
R15). Nothing here is an operation of the CORE. -/

namespace Sys2Proof.Machine

/-- `UPDS S` (30_encoding.md rule R100). -/
def updsCommands (s : List Byte) : List Instr := s.map .upd

/-- `HASH S` (30_encoding.md rule R100). -/
def hashCommands (s : List Byte) : List Instr := [.init] ++ updsCommands s ++ [.fin]

/-- The chunks of at most `k` bytes in which the HOST reads its source, in order; `fuel` bounds their number. -/
def chunksFrom (k : Nat) : Nat → List Byte → List (List Byte)
  | 0, _ => []
  | fuel + 1, s => if s.isEmpty then [] else s.take k :: chunksFrom k fuel (s.drop k)

/-- `HASHSTREAM S` with the HOST parameter CHUNK (30_encoding.md rule R100, 00_scope.md rule R7). CHUNK is left open by the
spec and is an argument here, any positive number (log 14). -/
def hashStreamCommands (chunk : Nat) (s : List Byte) : List Instr :=
  [.init] ++ (chunksFrom chunk s.length s).flatMap updsCommands ++ [.fin]

/-- `RDDALL` (30_encoding.md rule R100). -/
def rddAllCommands (a : Alg) : List Instr := (List.range a.DL).map fun i => .rdd (BitVec.ofNat 8 i)

/-- `HKEY S` (30_encoding.md rule R100). -/
def hkeyCommands (s : List Byte) : List Instr := [.hkinit] ++ s.map .hkupd ++ [.hkfin]

/-- `HMSG S` (30_encoding.md rule R100). -/
def hmsgCommands (s : List Byte) : List Instr := [.hminit] ++ s.map .hmupd ++ [.hmfin]

/-- `HRDMALL` (30_encoding.md rule R100). -/
def hrdmAllCommands (a : Alg) : List Instr := (List.range a.DL).map fun i => .hrdm (BitVec.ofNat 8 i)

/-- `HMAC K, M1, ..., Mk` (30_encoding.md rule R100). -/
def hmacCommands (a : Alg) (k : List Byte) (ms : List (List Byte)) : List Instr :=
  hkeyCommands k ++ ms.flatMap fun m => hmsgCommands m ++ hrdmAllCommands a

/-- The HOST is going to send these commands, then what it was going to send before. -/
def State.sending (s : State) (cs : List Instr) : State :=
  s.setInput (cs.map (fun i => .command (encode i)) ++ s.input)

/-- A hexadecimal digit, lowercase (00_scope.md rule R14). -/
def hexDigit (n : Nat) : Char :=
  ['0', '1', '2', '3', '4', '5', '6', '7', '8', '9', 'a', 'b', 'c', 'd', 'e', 'f'].getD n '0'

/-- Two characters per byte, most significant nibble first (00_scope.md rule R14). -/
def hexByte (b : Byte) : List Char := [hexDigit (b.toNat / 16), hexDigit (b.toNat % 16)]

/-- The rendering of a byte sequence, no separators (00_scope.md rules R14, R15). -/
def hexRender (s : List Byte) : List Char := s.flatMap hexByte

/-- The text of a format-A command (30_encoding.md rule R99). -/
def asmOperand (mnemonic : String) (arg : Byte) : String := mnemonic ++ " 0x" ++ String.ofList (hexByte arg)

/-- The assembler text of a command (30_encoding.md rule R99), the operand in hexadecimal. -/
def asm : Instr → String
  | .init => "INIT"
  | .upd b => asmOperand "UPD" b
  | .fin => "FIN"
  | .rdd i => asmOperand "RDD" i
  | .rds n => asmOperand "RDS" n
  | .hkinit => "HKINIT"
  | .hkupd b => asmOperand "HKUPD" b
  | .hkfin => "HKFIN"
  | .hminit => "HMINIT"
  | .hmupd b => asmOperand "HMUPD" b
  | .hmfin => "HMFIN"
  | .hrdm i => asmOperand "HRDM" i

end Sys2Proof.Machine
end

