-- ==== Sys2Proof/Safety.lean ====
section
/-! DEFINITION. The terms the claims are stated in: the invariant of the CORE, when two states look the same to the HOST, the
spec's tables of faults and phases, and the digest and the MAC as functions of whole messages. -/

namespace Sys2Proof.Machine

/-! ### The invariant -/

/-- One instance of a CORE configured for `a`: the arrays have the sizes of 00_scope.md rule R6 and 10_state.md rule R22, the
counters their ranges (10_state.md rules R26, R27), and in phase Ready BUFLEN is what rule R29 says. -/
structure EngineWf (a : Alg) (e : Engine) : Prop where
  h32_length : e.h32.length = numH32 a
  h64_length : e.h64.length = numH64 a
  x_length : e.x.length = numX a
  c_length : e.c.length = numC a
  buf_length : e.buf.length = a.B
  digest_length : e.digest.length = a.DL
  buflen_lt : e.buflen < a.B
  bitlen_lt : e.bitlen < 2 ^ a.LW
  bitlen_bytes : e.bitlen % 8 = 0
  buflen_ready : e.phase = .ready → e.buflen = e.bitlen / 8 % a.B

/-- The wrapper of a CORE configured for `a`: the sizes of KBUF and KLEN (10_state.md rule R41), and what each HPHASE says
about INNER, OUTER, KBUF and KLEN (46_hmac.md rules R241 to R250, R255). -/
structure WrapperWf (a : Alg) (s : State) : Prop where
  kbuf_length : s.kbuf.length = a.B
  klen_le : s.klen ≤ a.B + 1
  keying_inner : s.hphase = .keying → s.inner.phase = .ready
  keying_klen : s.hphase = .keying → s.klen = min (s.inner.bitlen / 8) (a.B + 1)
  keying_zeros : s.hphase = .keying → s.kbuf.drop s.klen = rep 0x00 (a.B - s.klen)
  msg_inner : s.hphase = .msg → s.inner.phase = .ready
  msg_bitlen : s.hphase = .msg → 8 * a.B ≤ s.inner.bitlen
  done_inner : s.hphase = .done → s.inner.phase = .final
  done_outer : s.hphase = .done → s.outer.phase = .final

/-- The invariant of the CORE. -/
structure StateInv (s : State) : Prop where
  /-- ALGR.REJ is 1 exactly when ALGR.SEL names no algorithm (10_state.md rule R21) -/
  rej_iff : s.rej = rejOfStrap s.sel
  /-- a rejected CORE shows it in ERR bit 0 (10_state.md rule R33) -/
  rej_err : s.rej = true → s.err.getLsbD 0 = true
  /-- on a rejected CORE every phase stays as reset left it (40_engine_commands.md rule R135) -/
  rej_phase : s.rej = true →
    s.eng.phase = .uninit ∧ s.inner.phase = .uninit ∧ s.outer.phase = .uninit ∧ s.hphase = .noKey
  eng_wf : ∀ a, configuredAlg s = some a → EngineWf a s.eng
  inner_wf : ∀ a, configuredAlg s = some a → EngineWf a s.inner
  outer_wf : ∀ a, configuredAlg s = some a → EngineWf a s.outer
  wrapper_wf : ∀ a, configuredAlg s = some a → WrapperWf a s

/-! ### What the HOST can see -/

/-- Two instances that absorb alike: the working registers, the counters and the valid bytes of BUF agree (10_state.md rules
R25, R48; the bytes of BUF at and above BUFLEN have no meaning). -/
structure AbsorbsAlike (e f : Engine) : Prop where
  h32_eq : e.h32 = f.h32
  h64_eq : e.h64 = f.h64
  x_eq : e.x = f.x
  c_eq : e.c = f.c
  buflen_eq : e.buflen = f.buflen
  bitlen_eq : e.bitlen = f.bitlen
  buf_eq : e.buf.take e.buflen = f.buf.take f.buflen

/-- Two states that agree on the registers with a defined reset value, on the HOST's side, and on a data register only where
a command could read it (10_state.md rule R48). -/
structure LooksAlike (s t : State) : Prop where
  sel_eq : s.sel = t.sel
  rej_eq : s.rej = t.rej
  err_eq : s.err = t.err
  hphase_eq : s.hphase = t.hphase
  input_eq : s.input = t.input
  out_eq : s.out = t.out
  eng_phase : s.eng.phase = t.eng.phase
  eng_ready : s.eng.phase = .ready → AbsorbsAlike s.eng t.eng
  eng_final : s.eng.phase = .final → s.eng.digest = t.eng.digest
  keying_inner : s.hphase = .keying → AbsorbsAlike s.inner t.inner
  keying_key : s.hphase = .keying → s.kbuf = t.kbuf ∧ s.klen = t.klen
  loaded_key : keyLoaded s.hphase = true → s.kbuf = t.kbuf
  msg_inner : s.hphase = .msg → AbsorbsAlike s.inner t.inner
  done_mac : s.hphase = .done → s.outer.digest = t.outer.digest

/-! ### The spec's tables -/

/-- The mask of the ERR bit of a fault, as 60_exceptions.md rule R270 lists the bits. -/
def faultMask : Cause → BitVec 5
  | .alg => 0b00001
  | .cmd => 0b00010
  | .state => 0b00100
  | .len => 0b01000
  | .idx => 0b10000

/-- The response word of a fault: `256 * code(F) + 0` (60_exceptions.md rules R270, R274). -/
def faultWord : Cause → Word
  | .alg => 0x0100
  | .cmd => 0x0200
  | .state => 0x0300
  | .len => 0x0400
  | .idx => 0x0500

/-- The state after a command refused for `c`: the ERR bit set, the response delivered, every other register as it was
(60_exceptions.md rule R274). -/
def afterRefusal (c : Cause) (s : State) : State :=
  { s with err := s.err ||| faultMask c, out := s.out ++ [faultWord c] }

/-- The command is an engine command: it addresses ENG (30_encoding.md rule R95, column "acts on"). -/
def isEngineCommand : Instr → Bool
  | .init | .upd _ | .fin | .rdd _ | .rds _ => true
  | .hkinit | .hkupd _ | .hkfin | .hminit | .hmupd _ | .hmfin | .hrdm _ => false

/-- The phases a command is refused in: the column "refused in" of 60_exceptions.md rule R273. -/
def refusedInPhase (i : Instr) (p : Phase) (h : HPhase) : Bool :=
  match i with
  | .init | .rds _ | .hkinit => false
  | .upd _ | .fin => p ≠ .ready
  | .rdd _ => p ≠ .final
  | .hkupd _ | .hkfin => h ≠ .keying
  | .hminit => h = .noKey ∨ h = .keying
  | .hmupd _ | .hmfin => h ≠ .msg
  | .hrdm _ => h ≠ .done

/-- The index of a command is not legal: `RDD`, `HRDM` with arg >= DL, `RDS` with arg >= 6 (60_exceptions.md rule R276). -/
def badIndex (a : Option Alg) (i : Instr) : Prop :=
  match i with
  | .rdd k | .hrdm k => ∃ b, a = some b ∧ b.DL ≤ k.toNat
  | .rds n => 6 ≤ n.toNat
  | .init | .upd _ | .fin | .hkinit | .hkupd _ | .hkfin | .hminit | .hmupd _ | .hmfin => False

/-- The byte of a command would make BITLEN overflow: not `BITLEN + 8 <= 2^LW - 1` (40_engine_commands.md rule R125,
60_exceptions.md rules R270, R275). -/
def pastLimit (a : Option Alg) (i : Instr) (s : State) : Prop :=
  match i with
  | .upd _ => ∃ b, a = some b ∧ 2 ^ b.LW - 1 < s.eng.bitlen + 8
  | .hkupd _ | .hmupd _ => ∃ b, a = some b ∧ 2 ^ b.LW - 1 < s.inner.bitlen + 8
  | .init | .fin | .rdd _ | .rds _ | .hkinit | .hkfin | .hminit | .hmfin | .hrdm _ => False

/-- One cell of the table of 40_engine_commands.md rule R135: the next PHASE of ENG and the status codes the command may be
answered with. The wrapper commands are no column of that table; they leave ENG as it is. -/
def phaseCell (p : Phase) (i : Instr) : Phase × List Byte :=
  match p, i with
  | _, .init => (.ready, [0x00])
  | .uninit, .upd _ => (.uninit, [0x03])
  | .uninit, .fin => (.uninit, [0x03])
  | .uninit, .rdd _ => (.uninit, [0x03])
  | .ready, .upd _ => (.ready, [0x00, 0x04])
  | .ready, .fin => (.final, [0x00])
  | .ready, .rdd _ => (.ready, [0x03])
  | .final, .upd _ => (.final, [0x03])
  | .final, .fin => (.final, [0x03])
  | .final, .rdd _ => (.final, [0x00, 0x05])
  | q, .rds _ => (q, [0x00, 0x05])
  | q, .hkinit | q, .hkupd _ | q, .hkfin | q, .hminit | q, .hmupd _ | q, .hmfin | q, .hrdm _ =>
    (q, [0x00, 0x03, 0x04, 0x05])

/-- One cell of the table of 46_hmac.md rule R254: the next HPHASE and the status codes the command may be answered with.
The engine commands are no column of that table; they leave HPHASE as it is. -/
def hphaseCell (h : HPhase) (i : Instr) : HPhase × List Byte :=
  match h, i with
  | _, .hkinit => (.keying, [0x00])
  | .keying, .hkupd _ => (.keying, [0x00, 0x04])
  | .keying, .hkfin => (.keyed, [0x00])
  | .keyed, .hminit => (.msg, [0x00])
  | .msg, .hminit => (.msg, [0x00])
  | .done, .hminit => (.msg, [0x00])
  | .msg, .hmupd _ => (.msg, [0x00, 0x04])
  | .msg, .hmfin => (.done, [0x00])
  | .done, .hrdm _ => (.done, [0x00, 0x05])
  | q, .hkupd _ | q, .hkfin | q, .hminit | q, .hmupd _ | q, .hmfin | q, .hrdm _ => (q, [0x03])
  | q, .init | q, .upd _ | q, .fin | q, .rdd _ | q, .rds _ => (q, [0x00, 0x03, 0x04, 0x05])

/-! ### The digest and the MAC of whole messages -/

/-- The largest number of bytes an instance absorbs between two `eng_init`: `2^(LW-3) - 1` (40_engine_commands.md rule
R125). -/
def maxBytes (a : Alg) : Nat := 2 ^ (a.LW - 3) - 1

/-- The whole padded message. MD2: p bytes of value p, p = 16 - len mod 16. The others: 0x80, the fewest zeros that make the
length field end at a block boundary, the length field of the whole bit count (41_padding_and_digest.md rules R151 to
R155). -/
def paddedMessage (a : Alg) (m : List Byte) : List Byte :=
  if a = .md2 then
    m ++ rep (BitVec.ofNat 8 (16 - m.length % 16)) (16 - m.length % 16)
  else
    m ++ [0x80] ++ rep 0x00 ((a.B - (m.length + 1 + a.LF) % a.B) % a.B) ++ lengthField a (8 * m.length)

/-- `digest(ALG, M)` as a function of the whole message: compress the blocks of the padded message in order from the IV, for
MD2 then the checksum block, and take the first DL bytes of the serialised working registers (40_engine_commands.md rule R133,
41_padding_and_digest.md rules R150, R158). -/
def digestOf (a : Alg) (m : List Byte) : List Byte :=
  extract a (compressChecksum a ((blocksOf a.B (paddedMessage a m)).foldl (compress a) (loadIv a (engineAtReset a))))

/-- `K0` (46_hmac.md rule R240). -/
def keyBlock (a : Alg) (k : List Byte) : List Byte :=
  if k.length ≤ a.B then k ++ rep 0x00 (a.B - k.length) else digestOf a k ++ rep 0x00 (a.B - a.DL)

/-- The MAC of a message under a key block: `digest((K0 xor opad) ++ digest((K0 xor ipad) ++ M))` (46_hmac.md rule R240). -/
def macOf (a : Alg) (k0 m : List Byte) : List Byte :=
  digestOf a (xorb k0 0x5c ++ digestOf a (xorb k0 0x36 ++ m))

/-- `hmac(ALG, K, M)` (46_hmac.md rule R240). -/
def hmacOf (a : Alg) (k m : List Byte) : List Byte := macOf a (keyBlock a k) m

end Sys2Proof.Machine
end

