-- ==== Sys2Proof/Certificates/Slice0/Obligations.lean ====
section
/-! DEFINITION. The statements for the provers. Each docstring names the rule of spec/ it formalises; a statement about a
run of commands quantifies over every message, key and start state. -/

open Sys2Proof Sys2Proof.Machine

/-- The opcode map of 30_encoding.md section 3, one word per row written out in binary. -/
def Obligations.DecodeReadsWrittenOutWords : Prop :=
  decode 0b0000000100000000 = .ok .init ∧
  decode 0b0000001001100001 = .ok (.upd 0b01100001) ∧
  decode 0b0000001100000000 = .ok .fin ∧
  decode 0b0000010000001111 = .ok (.rdd 0b00001111) ∧
  decode 0b0000010100000011 = .ok (.rds 0b00000011) ∧
  decode 0b0001000100000000 = .ok .hkinit ∧
  decode 0b0001001001110011 = .ok (.hkupd 0b01110011) ∧
  decode 0b0001001100000000 = .ok .hkfin ∧
  decode 0b0010000100000000 = .ok .hminit ∧
  decode 0b0010001001001000 = .ok (.hmupd 0b01001000) ∧
  decode 0b0010001100000000 = .ok .hmfin ∧
  decode 0b0010010000011111 = .ok (.hrdm 0b00011111)

/-- Formats N and A and the opcode map (30_encoding.md sections 1 to 3): no bit of an encoding is dropped. -/
def Obligations.DecodeEncodeRoundTrip : Prop :=
  ∀ i : Instr, i.wellFormed = true → decode (encode i) = .ok i

/-- "no hints, no aliases, no ignored bits" (92_eei_decisions.md D20): each command has exactly one word. -/
def Obligations.EncodeDecodeRoundTrip : Prop :=
  ∀ (w : Word) (i : Instr), decode w = .ok i → encode i = w

/-- The reserved words of 30_encoding.md section 4, said by the mask and match columns and again by the fields. -/
def Obligations.ReservedWordsAreThoseOutsideTheMap : Prop :=
  (∀ w : Word,
    ((∃ r, decode w = .error r) ↔ legalWord w = false) ∧
    (legalWord w = false ↔
      (w.toNat / 256 ∉ [0x01, 0x02, 0x03, 0x04, 0x05, 0x11, 0x12, 0x13, 0x21, 0x22, 0x23, 0x24] ∨
        (w.toNat / 256 ∈ [0x01, 0x03, 0x11, 0x13, 0x21, 0x23] ∧ w.toNat % 256 ≠ 0)))) ∧
  legalWord 0x0000 = false ∧ legalWord 0xffff = false

/-- One command at a time, in the HOST's order (30_encoding.md section 1). The list of events is the model's own (log 3). -/
def Obligations.StepRunsTheDecodedCommand : Prop :=
  (∀ (s : State) (w : Word) (rest : List HostEvent) (i : Instr),
    s.input = .command w :: rest → decode w = .ok i → i.wellFormed = true →
    step s = exec i { s with input := rest }) ∧
  (∀ (s : State) (w : Nat) (i : Instr),
    w < 2 ^ 16 → decode (BitVec.ofNat 16 w) = .ok i → step (s.withFetchWord 16 w) = exec i s)

/-- 60_exceptions.md rule R272. -/
def Obligations.ReservedWordIsRefusedBeforeAnythingElse : Prop :=
  ∀ (s : State) (w : Word) (rest : List HostEvent),
    s.input = .command w :: rest → legalWord w = false →
    step s = .next { s with input := rest, err := s.err ||| 0b00010, out := s.out ++ [0x0200] }

/-- 70_reset_and_hazards.md rule R302. -/
def Obligations.NothingRunsWithoutTheHost : Prop :=
  (∀ s : State, s.input = [] → step s = .next s) ∧
  (∀ algSel : BitVec 4, step (State.resetWith algSel) = .next (State.resetWith algSel))

/-- 70_reset_and_hazards.md rule R300 (1) to (5), and its last sentence. Clause (6), the unspecified registers, is a sentence about what may not be concluded, and nothing is stated of them. -/
def Obligations.ResetLoadsTheDefinedRegisters : Prop :=
  (∀ (s : State) (algSel : BitVec 4) (rest : List HostEvent),
    s.input = .reset algSel :: rest →
    ∃ t, step s = .next t ∧ t.sel = algSel ∧ t.rej = decide (10 ≤ algSel.toNat) ∧
      t.err = (if 10 ≤ algSel.toNat then 0b00001 else 0b00000) ∧
      t.eng.phase = .uninit ∧ t.inner.phase = .uninit ∧ t.outer.phase = .uninit ∧ t.hphase = .noKey) ∧
  (∀ (i : Instr) (s t : State), exec i s = .next t → t.sel = s.sel ∧ t.rej = s.rej)

/-- U15 and D24. That the delivered responses and the coming events survive a reset is the model's choice (log 3, log 4); the data registers' values after it are too (log 2), and no value of theirs is stated. -/
def Obligations.ResetDuringACommandLeavesOnlyTheReset : Prop :=
  ∀ (s u : State) (w : Word) (algSel : BitVec 4) (rest : List HostEvent),
    s.input = .aborted w algSel :: rest → u.input = .reset algSel :: rest → u.out = s.out →
    ∃ t, step s = .next t ∧ step u = .next t ∧ t.out = s.out ∧ t.input = rest

/-- 40_engine_commands.md rule R132 with the register map of 10_state.md rules R34 to R40. -/
def Obligations.RdsReadsTheSixStatusRegisters : Prop :=
  (∀ s : State,
    exec (.rds 0) s = .next { s with out := s.out ++ [BitVec.ofNat 16 (s.sel.toNat + 128 * s.rej.toNat)] } ∧
    exec (.rds 1) s = .next { s with out := s.out ++
      [match s.eng.phase with | .uninit => 0 | .ready => 1 | .final => 2] } ∧
    exec (.rds 2) s = .next { s with out := s.out ++
      [match s.hphase with | .noKey => 0 | .keying => 1 | .keyed => 2 | .msg => 3 | .done => 4] } ∧
    exec (.rds 3) s = .next { s with out := s.out ++ [BitVec.ofNat 16 s.err.toNat] } ∧
    (s.rej = true → exec (.rds 4) s = .next { s with out := s.out ++ [0x0000] }) ∧
    (s.rej = true → exec (.rds 5) s = .next { s with out := s.out ++ [0x0000] }) ∧
    (∀ a, s.rej = false → Alg.ofCode s.sel = some a →
      exec (.rds 4) s = .next { s with out := s.out ++ [BitVec.ofNat 16 a.B] } ∧
      exec (.rds 5) s = .next { s with out := s.out ++ [BitVec.ofNat 16 a.DL] }) ∧
    (∀ n : Byte, 6 ≤ n.toNat →
      exec (.rds n) s = .next { s with err := s.err ||| 0b10000, out := s.out ++ [0x0500] })) ∧
  (∀ algSel : BitVec 4, (State.resetWith algSel).sel = algSel ∧
    (State.resetWith algSel).rej = decide (10 ≤ algSel.toNat) ∧
    (State.resetWith algSel).err = (if 10 ≤ algSel.toNat then 0b00001 else 0b00000) ∧
    (State.resetWith algSel).eng.phase = .uninit ∧ (State.resetWith algSel).hphase = .noKey)

/-- 40_engine_commands.md rule R121. -/
def Obligations.EngInitWritesIvZeroesBufferAndLength : Prop :=
  ∀ (a : Alg) (e : Engine),
    (engInit a e).buf = List.replicate a.B 0 ∧ (engInit a e).buflen = 0 ∧ (engInit a e).bitlen = 0 ∧
    (engInit a e).phase = .ready ∧ (engInit a e).digest = e.digest ∧
    (a = .md2 → (engInit a e).x = List.replicate 48 0 ∧ (engInit a e).c = List.replicate 16 0) ∧
    (a ≠ .md2 → (engInit a e).x = e.x ∧ (engInit a e).c = e.c) ∧
    (a.WW ≠ 32 → (engInit a e).h32 = e.h32) ∧ (a.WW ≠ 64 → (engInit a e).h64 = e.h64) ∧
    (a = .md4 ∨ a = .md5 → (engInit a e).h32 = [0x67452301, 0xefcdab89, 0x98badcfe, 0x10325476]) ∧
    (a = .sha1 → (engInit a e).h32 = [0x67452301, 0xefcdab89, 0x98badcfe, 0x10325476, 0xc3d2e1f0]) ∧
    (a = .sha2_224 → (engInit a e).h32 = Rom.iv224) ∧ (a = .sha2_256 → (engInit a e).h32 = Rom.iv256) ∧
    (a = .sha2_384 → (engInit a e).h64 = Rom.iv384) ∧ (a = .sha2_512 → (engInit a e).h64 = Rom.iv512) ∧
    (a = .sha2_512_224 → (engInit a e).h64 = Rom.iv512_224) ∧
    (a = .sha2_512_256 → (engInit a e).h64 = Rom.iv512_256)

/-- 40_engine_commands.md rule R123. -/
def Obligations.EngAbsorbStoresAndCompressesTheFullBlock : Prop :=
  ∀ (a : Alg) (e : Engine) (b : Byte), e.buf.length = a.B →
    (e.buflen + 1 ≠ a.B →
      engAbsorb a e b = { e with
        buf := e.buf.set e.buflen b, bitlen := e.bitlen + 8, buflen := e.buflen + 1 }) ∧
    (e.buflen + 1 = a.B →
      engAbsorb a e b = { compress a e (e.buf.set e.buflen b) with
        buf := e.buf.set e.buflen b, bitlen := e.bitlen + 8, buflen := 0 })

/-- 40_engine_commands.md rule R124. -/
def Obligations.CompressChangesOnlyTheWorkingRegisters : Prop :=
  ∀ (e : Engine) (blk : List Byte),
    compress .md2 e blk = { e with x := (compressMd2 e.x e.c blk).1, c := (compressMd2 e.x e.c blk).2 } ∧
    compress .md4 e blk = { e with h32 := compressMd4 e.h32 blk } ∧
    compress .md5 e blk = { e with h32 := compressMd5 e.h32 blk } ∧
    compress .sha1 e blk = { e with h32 := compressSha1 e.h32 blk } ∧
    (∀ a, a = .sha2_224 ∨ a = .sha2_256 → compress a e blk = { e with h32 := compressSha256 e.h32 blk }) ∧
    (∀ a, a = .sha2_384 ∨ a = .sha2_512 ∨ a = .sha2_512_224 ∨ a = .sha2_512_256 →
      compress a e blk = { e with h64 := compressSha512 e.h64 blk })

/-- 41_padding_and_digest.md rules R152 to R155 (the checksum block of R155 is in the statement about eng_finalize). -/
def Obligations.PadTailHasTheLayoutOfItsAlgorithm : Prop :=
  (∀ (m : List Byte) (l : Nat) (a : Alg), m.length < 64 → a = .md4 ∨ a = .md5 →
    padTail a m l = m ++ [0x80] ++
      List.replicate (if m.length ≤ 55 then 55 - m.length else 119 - m.length) 0 ++ leBytes 8 l) ∧
  (∀ (m : List Byte) (l : Nat) (a : Alg), m.length < 64 → a = .sha1 ∨ a = .sha2_224 ∨ a = .sha2_256 →
    padTail a m l = m ++ [0x80] ++
      List.replicate (if m.length ≤ 55 then 55 - m.length else 119 - m.length) 0 ++ (leBytes 8 l).reverse) ∧
  (∀ (m : List Byte) (l : Nat) (a : Alg), m.length < 128 →
    a = .sha2_384 ∨ a = .sha2_512 ∨ a = .sha2_512_224 ∨ a = .sha2_512_256 →
    padTail a m l = m ++ [0x80] ++
      List.replicate (if m.length ≤ 111 then 111 - m.length else 239 - m.length) 0 ++ (leBytes 16 l).reverse) ∧
  (∀ (m : List Byte) (l : Nat), m.length < 16 →
    padTail .md2 m l = m ++ List.replicate (16 - m.length) (BitVec.ofNat 8 (16 - m.length)))

/-- 41_padding_and_digest.md rule R150; that BUF and BITLEN keep their values is the spec's D15. -/
def Obligations.EngFinalizePadsCompressesAndExtracts : Prop :=
  ∀ (a : Alg) (e e1 e2 : Engine),
    e1 = ((List.range ((padTail a (e.buf.take e.buflen) e.bitlen).length / a.B)).map fun k =>
        ((padTail a (e.buf.take e.buflen) e.bitlen).drop (k * a.B)).take a.B).foldl (compress a) e →
    (a ≠ .md2 → e2 = e1) → (a = .md2 → e2 = compress .md2 e1 (e1.c.take 16)) →
    engFinalize a e = { e2 with digest := extract a e2, buflen := 0, phase := .final } ∧
    (engFinalize a e).buf = e.buf ∧ (engFinalize a e).bitlen = e.bitlen

/-- 41_padding_and_digest.md rule R158. -/
def Obligations.ExtractTakesTheFirstBytesInTheDeclaredOrder : Prop :=
  ∀ e : Engine,
    extract .md2 e = e.x.take 16 ∧
    (∀ a w0 w1 w2 w3, a = .md4 ∨ a = .md5 → e.h32 = [w0, w1, w2, w3] →
      extract a e = leBytes 4 w0.toNat ++ leBytes 4 w1.toNat ++ leBytes 4 w2.toNat ++ leBytes 4 w3.toNat) ∧
    extract .sha1 e = (e.h32.flatMap fun w => (leBytes 4 w.toNat).reverse).take 20 ∧
    extract .sha2_224 e = (e.h32.flatMap fun w => (leBytes 4 w.toNat).reverse).take 28 ∧
    extract .sha2_256 e = (e.h32.flatMap fun w => (leBytes 4 w.toNat).reverse).take 32 ∧
    extract .sha2_384 e = (e.h64.flatMap fun w => (leBytes 8 w.toNat).reverse).take 48 ∧
    extract .sha2_512 e = (e.h64.flatMap fun w => (leBytes 8 w.toNat).reverse).take 64 ∧
    extract .sha2_512_224 e = (e.h64.flatMap fun w => (leBytes 8 w.toNat).reverse).take 28 ∧
    extract .sha2_512_256 e = (e.h64.flatMap fun w => (leBytes 8 w.toNat).reverse).take 32

/-- 44_sha2_32.md rule R217 and 45_sha2_64.md rule R234. -/
def Obligations.TruncatedVariantsDifferOnlyInIvAndLength : Prop :=
  ∀ (e : Engine) (blk m : List Byte) (l : Nat),
    (compress .sha2_224 e blk = compress .sha2_256 e blk ∧ padTail .sha2_224 m l = padTail .sha2_256 m l ∧
      serialise .sha2_224 e = serialise .sha2_256 e ∧
      engInit .sha2_224 e = { engInit .sha2_256 e with h32 := Rom.iv224 } ∧
      extract .sha2_224 e = (serialise .sha2_256 e).take 28 ∧ extract .sha2_256 e = (serialise .sha2_256 e).take 32) ∧
    (∀ a iv dl, (a = .sha2_384 ∧ iv = Rom.iv384 ∧ dl = 48) ∨ (a = .sha2_512 ∧ iv = Rom.iv512 ∧ dl = 64) ∨
        (a = .sha2_512_224 ∧ iv = Rom.iv512_224 ∧ dl = 28) ∨ (a = .sha2_512_256 ∧ iv = Rom.iv512_256 ∧ dl = 32) →
      compress a e blk = compress .sha2_512 e blk ∧ padTail a m l = padTail .sha2_512 m l ∧
      engInit a e = { engInit .sha2_512 e with h64 := iv } ∧
      extract a e = (serialise .sha2_512 e).take dl)

/-- 40_engine_commands.md rule R125. -/
def Obligations.LenOkIsTheBitlenLimit : Prop :=
  ∀ (a : Alg) (e : Engine),
    (lenOk a e = true ↔ e.bitlen + 8 ≤ 2 ^ a.LW - 1) ∧
    (e.bitlen % 8 = 0 → e.bitlen < 2 ^ a.LW →
      (lenOk a e = true ↔ e.bitlen ≠ 2 ^ a.LW - 8) ∧
      (lenOk a e = true ↔ e.bitlen / 8 < 2 ^ (a.LW - 3) - 1)) ∧
    (lenOk a e = true → e.bitlen + 8 < 2 ^ a.LW) ∧
    (∀ (s : State) (b : Byte), s.rej = false → Alg.ofCode s.sel = some a → s.eng.phase = .ready →
      lenOk a s.eng = false →
      exec (.upd b) s = .next (afterRefusal .len s) ∧
      exec .fin s = .next { s with eng := engFinalize a s.eng, out := s.out ++ [0x0000] })

/-- 40_engine_commands.md rule R120. -/
def Obligations.InitReinitialisesEng : Prop :=
  decode 0x0100 = .ok .init ∧
  (∀ s : State, s.rej = true → exec .init s = .next (afterRefusal .alg s)) ∧
  (∀ (s : State) (a : Alg), s.rej = false → Alg.ofCode s.sel = some a →
    ∃ t, exec .init s = .next t ∧ t = { s with eng := engInit a s.eng, out := s.out ++ [0x0000] } ∧
      t.eng.phase = .ready ∧ t.eng.digest = s.eng.digest ∧
      exec .init t = .next { t with out := t.out ++ [0x0000] })

/-- 40_engine_commands.md rule R122. -/
def Obligations.UpdAbsorbsOneByteOrIsRefused : Prop :=
  (∀ b : Byte, decode (0x0200 + b.setWidth 16) = .ok (.upd b)) ∧
  (∀ (s : State) (b : Byte), s.rej = true → exec (.upd b) s = .next (afterRefusal .alg s)) ∧
  (∀ (s : State) (a : Alg) (b : Byte), s.rej = false → Alg.ofCode s.sel = some a →
    (s.eng.phase ≠ .ready → exec (.upd b) s = .next (afterRefusal .state s)) ∧
    (s.eng.phase = .ready → ¬ s.eng.bitlen + 8 ≤ 2 ^ a.LW - 1 → exec (.upd b) s = .next (afterRefusal .len s)) ∧
    (s.eng.phase = .ready → s.eng.bitlen + 8 ≤ 2 ^ a.LW - 1 →
      exec (.upd b) s = .next { s with eng := engAbsorb a s.eng b, out := s.out ++ [0x0000] }))

/-- 40_engine_commands.md rule R126. -/
def Obligations.FinProducesTheDigestOrIsRefused : Prop :=
  decode 0x0300 = .ok .fin ∧
  (∀ s : State, s.rej = true → exec .fin s = .next (afterRefusal .alg s)) ∧
  (∀ (s : State) (a : Alg), s.rej = false → Alg.ofCode s.sel = some a →
    (s.eng.phase ≠ .ready → exec .fin s = .next (afterRefusal .state s)) ∧
    (s.eng.phase = .ready →
      ∃ t, exec .fin s = .next t ∧ t = { s with eng := engFinalize a s.eng, out := s.out ++ [0x0000] } ∧
        t.eng.phase = .final ∧
        ∃ u, exec .fin t = .next u ∧ u = afterRefusal .state t ∧ u.eng.digest = t.eng.digest))

/-- 40_engine_commands.md rule R131. -/
def Obligations.RddReadsADigestByteOrIsRefused : Prop :=
  (∀ i : Byte, decode (0x0400 + i.setWidth 16) = .ok (.rdd i)) ∧
  (∀ (s : State) (i : Byte), s.rej = true → exec (.rdd i) s = .next (afterRefusal .alg s)) ∧
  (∀ (s : State) (a : Alg) (i : Byte), s.rej = false → Alg.ofCode s.sel = some a →
    (s.eng.phase ≠ .final → exec (.rdd i) s = .next (afterRefusal .state s)) ∧
    (s.eng.phase = .final → a.DL ≤ i.toNat → exec (.rdd i) s = .next (afterRefusal .idx s)) ∧
    (s.eng.phase = .final → i.toNat < a.DL → ∀ d : Byte, s.eng.digest[i.toNat]? = some d →
      exec (.rdd i) s = .next { s with out := s.out ++ [BitVec.ofNat 16 d.toNat] }))

/-- 46_hmac.md rule R241. -/
def Obligations.HkinitBeginsAKey : Prop :=
  decode 0x1100 = .ok .hkinit ∧
  (∀ s : State, s.rej = true → exec .hkinit s = .next (afterRefusal .alg s)) ∧
  (∀ (s : State) (a : Alg), s.rej = false → Alg.ofCode s.sel = some a →
    exec .hkinit s = .next { s with
      inner := engInit a s.inner, kbuf := List.replicate a.B 0, klen := 0, hphase := .keying,
      out := s.out ++ [0x0000] })

/-- 46_hmac.md rule R242. -/
def Obligations.HkupdTakesOneKeyByteOrIsRefused : Prop :=
  (∀ b : Byte, decode (0x1200 + b.setWidth 16) = .ok (.hkupd b)) ∧
  (∀ (s : State) (b : Byte), s.rej = true → exec (.hkupd b) s = .next (afterRefusal .alg s)) ∧
  (∀ (s : State) (a : Alg) (b : Byte), s.rej = false → Alg.ofCode s.sel = some a →
    (s.hphase ≠ .keying → exec (.hkupd b) s = .next (afterRefusal .state s)) ∧
    (s.hphase = .keying → ¬ s.inner.bitlen + 8 ≤ 2 ^ a.LW - 1 →
      exec (.hkupd b) s = .next (afterRefusal .len s)) ∧
    (s.hphase = .keying → s.inner.bitlen + 8 ≤ 2 ^ a.LW - 1 →
      exec (.hkupd b) s = .next { s with
        inner := engAbsorb a s.inner b,
        kbuf := if s.klen < a.B then s.kbuf.set s.klen b else s.kbuf,
        klen := if s.klen ≤ a.B then s.klen + 1 else s.klen,
        out := s.out ++ [0x0000] }))

/-- 46_hmac.md rule R246. -/
def Obligations.HkfinEndsTheKeyOrIsRefused : Prop :=
  decode 0x1300 = .ok .hkfin ∧
  (∀ s : State, s.rej = true → exec .hkfin s = .next (afterRefusal .alg s)) ∧
  (∀ (s : State) (a : Alg), s.rej = false → Alg.ofCode s.sel = some a →
    (s.hphase ≠ .keying → exec .hkfin s = .next (afterRefusal .state s)) ∧
    (s.hphase = .keying → s.klen ≤ a.B →
      exec .hkfin s = .next { s with hphase := .keyed, out := s.out ++ [0x0000] }) ∧
    (s.hphase = .keying → a.B < s.klen →
      exec .hkfin s = .next { s with
        inner := engFinalize a s.inner,
        kbuf := (engFinalize a s.inner).digest.take a.DL ++ List.replicate (a.B - a.DL) 0,
        hphase := .keyed, out := s.out ++ [0x0000] }))

/-- 46_hmac.md rule R248. -/
def Obligations.HminitAbsorbsTheIpadBlockOrIsRefused : Prop :=
  decode 0x2100 = .ok .hminit ∧
  (∀ s : State, s.rej = true → exec .hminit s = .next (afterRefusal .alg s)) ∧
  (∀ (s : State) (a : Alg), s.rej = false → Alg.ofCode s.sel = some a →
    (s.hphase = .noKey ∨ s.hphase = .keying → exec .hminit s = .next (afterRefusal .state s)) ∧
    (s.hphase = .keyed ∨ s.hphase = .msg ∨ s.hphase = .done → s.kbuf.length = a.B →
      ∃ t, exec .hminit s = .next t ∧
        t = { s with
          inner := (s.kbuf.map (· ^^^ 0x36)).foldl (engAbsorb a) (engInit a s.inner),
          hphase := .msg, out := s.out ++ [0x0000] } ∧
        t.inner.buflen = 0 ∧ t.inner.bitlen = 8 * a.B ∧ t.inner.phase = .ready))

/-- 46_hmac.md rule R249, its item limit included. -/
def Obligations.HmupdAbsorbsOneMessageByteOrIsRefused : Prop :=
  (∀ b : Byte, decode (0x2200 + b.setWidth 16) = .ok (.hmupd b)) ∧
  (∀ (s : State) (b : Byte), s.rej = true → exec (.hmupd b) s = .next (afterRefusal .alg s)) ∧
  (∀ (s : State) (a : Alg) (b : Byte), s.rej = false → Alg.ofCode s.sel = some a →
    (s.hphase ≠ .msg → exec (.hmupd b) s = .next (afterRefusal .state s)) ∧
    (s.hphase = .msg → ¬ s.inner.bitlen + 8 ≤ 2 ^ a.LW - 1 →
      exec (.hmupd b) s = .next (afterRefusal .len s)) ∧
    (s.hphase = .msg → s.inner.bitlen + 8 ≤ 2 ^ a.LW - 1 →
      exec (.hmupd b) s = .next { s with inner := engAbsorb a s.inner b, out := s.out ++ [0x0000] } ∧
      (engAbsorb a s.inner b).bitlen = s.inner.bitlen + 8) ∧
    ((s.hphase = .keyed ∨ s.hphase = .msg ∨ s.hphase = .done) → s.kbuf.length = a.B →
      ∃ t, exec .hminit s = .next t ∧ t.hphase = .msg ∧ t.inner.bitlen = 8 * a.B) ∧
    (s.hphase = .msg → ∀ n, s.inner.bitlen = 8 * (a.B + n) →
      (exec (.hmupd b) s = .next (afterRefusal .len s) ↔ 2 ^ (a.LW - 3) - 1 - a.B ≤ n)))

/-- 46_hmac.md rule R250. -/
def Obligations.HmfinComputesTheMacOrIsRefused : Prop :=
  decode 0x2300 = .ok .hmfin ∧
  (∀ s : State, s.rej = true → exec .hmfin s = .next (afterRefusal .alg s)) ∧
  (∀ (s : State) (a : Alg), s.rej = false → Alg.ofCode s.sel = some a →
    (s.hphase ≠ .msg → exec .hmfin s = .next (afterRefusal .state s)) ∧
    (s.hphase = .msg → s.kbuf.length = a.B →
      exec .hmfin s = .next { s with
        inner := engFinalize a s.inner,
        outer := engFinalize a (((engFinalize a s.inner).digest.take a.DL).foldl (engAbsorb a)
          ((s.kbuf.map (· ^^^ 0x5c)).foldl (engAbsorb a) (engInit a s.outer))),
        hphase := .done, out := s.out ++ [0x0000] }))

/-- 46_hmac.md rule R252. -/
def Obligations.HrdmReadsAMacByteOrIsRefused : Prop :=
  (∀ i : Byte, decode (0x2400 + i.setWidth 16) = .ok (.hrdm i)) ∧
  (∀ (s : State) (i : Byte), s.rej = true → exec (.hrdm i) s = .next (afterRefusal .alg s)) ∧
  (∀ (s : State) (a : Alg) (i : Byte), s.rej = false → Alg.ofCode s.sel = some a →
    (s.hphase ≠ .done → exec (.hrdm i) s = .next (afterRefusal .state s)) ∧
    (s.hphase = .done → a.DL ≤ i.toNat → exec (.hrdm i) s = .next (afterRefusal .idx s)) ∧
    (s.hphase = .done → i.toNat < a.DL → ∀ d : Byte, s.outer.digest[i.toNat]? = some d →
      exec (.hrdm i) s = .next { s with out := s.out ++ [BitVec.ofNat 16 d.toNat] }))

/-- 30_encoding.md rule R91. -/
def Obligations.EveryCommandWordIsAnsweredOnce : Prop :=
  ∀ (s : State) (w : Word) (rest : List HostEvent), s.input = .command w :: rest →
    ∃ (t : State) (status data : Byte), step s = .next t ∧ t.input = rest ∧ t.out = s.out ++ [status ++ data] ∧
      status.toNat ≤ 5 ∧ (status ≠ 0 → data = 0) ∧
      (opField w ≠ 0x04 → opField w ≠ 0x05 → opField w ≠ 0x24 → data = 0) ∧
      (status = 0 → ∀ i, decode w = .ok i → 
        match i with
        | .rdd k => ∀ d : Byte, s.eng.digest[k.toNat]? = some d → data = d
        | .hrdm k => ∀ d : Byte, s.outer.digest[k.toNat]? = some d → data = d
        | .rds n => statusRegister s n = some data
        | .init | .upd _ | .fin | .hkinit | .hkupd _ | .hkfin | .hminit | .hmupd _ | .hmfin => data = 0)

/-- 60_exceptions.md rule R274. -/
def Obligations.RefusedCommandChangesOnlyItsErrBit : Prop :=
  ∀ (i : Instr) (s t : State) (status data : Byte),
    exec i s = .next t → t.out = s.out ++ [status ++ data] → status ≠ 0 →
    ∃ c : Cause, t = afterRefusal c s ∧ status ++ data = faultWord c

/-- 10_state.md rule R33, 60_exceptions.md rule R278. -/
def Obligations.OnlyResetClearsErrBits : Prop :=
  (∀ s t : State, step s = .next t →
    (∀ n, s.input.head? ≠ some (.reset n)) → (∀ w n, s.input.head? ≠ some (.aborted w n)) →
    s.err &&& t.err = s.err ∧
    (t.err ≠ s.err → ∃ c : Cause, t.err = s.err ||| faultMask c ∧ t.out = s.out ++ [faultWord c])) ∧
  (∀ (s : State) (algSel : BitVec 4) (rest : List HostEvent), s.input = .reset algSel :: rest →
    ∃ t, step s = .next t ∧ t.err = (if 10 ≤ algSel.toNat then 0b00001 else 0b00000)) ∧
  (∀ s : State, exec (.rds 3) s = .next { s with out := s.out ++ [BitVec.ofNat 16 s.err.toNat] }) ∧
  (faultMask .alg = 0b00001 ∧ faultMask .cmd = 0b00010 ∧ faultMask .state = 0b00100 ∧ faultMask .len = 0b01000 ∧
    faultMask .idx = 0b10000)

/-- 60_exceptions.md rules R277, R273, R276. -/
def Obligations.FirstApplicableFaultIsReported : Prop :=
  (∀ (s : State) (w : Word) (rest : List HostEvent), s.input = .command w :: rest →
    (legalWord w = false → step s = .next (afterRefusal .cmd { s with input := rest })) ∧
    (legalWord w = true → ∃ i, decode w = .ok i ∧ step s = exec i { s with input := rest })) ∧
  (∀ (i : Instr) (s : State), ¬ (badIndex (Alg.ofCode s.sel) i ∧ pastLimit (Alg.ofCode s.sel) i s)) ∧
  (∀ (i : Instr) (s : State), s.rej = rejOfStrap s.sel →
    ((s.rej = true ∧ ∀ n, i ≠ .rds n) → exec i s = .next (afterRefusal .alg s)) ∧
    (¬ (s.rej = true ∧ ∀ n, i ≠ .rds n) →
      (refusedInPhase i s.eng.phase s.hphase = true → exec i s = .next (afterRefusal .state s)) ∧
      (refusedInPhase i s.eng.phase s.hphase = false →
        (badIndex (Alg.ofCode s.sel) i → exec i s = .next (afterRefusal .idx s)) ∧
        (¬ badIndex (Alg.ofCode s.sel) i →
          (pastLimit (Alg.ofCode s.sel) i s → exec i s = .next (afterRefusal .len s)) ∧
          (¬ pastLimit (Alg.ofCode s.sel) i s →
            ∃ (t : State) (data : Byte), exec i s = .next t ∧ t.err = s.err ∧ t.out = s.out ++ [0x00#8 ++ data])))))

/-- 60_exceptions.md rule R271. -/
def Obligations.RejectedCoreRefusesEverythingButRds : Prop :=
  (∀ (i : Instr) (s : State), s.rej = true → (∀ n, i ≠ .rds n) → exec i s = .next (afterRefusal .alg s)) ∧
  (∀ (i : Instr) (s t : State) (a : Alg), s.rej = false → Alg.ofCode s.sel = some a → exec i s = .next t →
    t.out ≠ s.out ++ [0x0100]) ∧
  (∀ (i : Instr) (s t : State), exec i s = .next t → t.rej = s.rej) ∧
  (∀ algSel : BitVec 4, ((State.resetWith algSel).rej = true ↔ 10 ≤ algSel.toNat) ∧
    ((State.resetWith algSel).err.getLsbD 0 = true ↔ 10 ≤ algSel.toNat))

/-- The table of 40_engine_commands.md section 8 (rule R135), cell by cell. -/
def Obligations.EngineCommandsFollowThePhaseTable : Prop :=
  (∀ (i : Instr) (s : State) (a : Alg), s.rej = false → Alg.ofCode s.sel = some a →
    ∃ (t : State) (status data : Byte), exec i s = .next t ∧ t.out = s.out ++ [status ++ data] ∧
      t.eng.phase = (phaseCell s.eng.phase i).1 ∧ status ∈ (phaseCell s.eng.phase i).2) ∧
  (∀ (i : Instr) (s : State), s.rej = true → ∃ t, exec i s = .next t ∧ t.eng.phase = s.eng.phase)

/-- 46_hmac.md rule R254, cell by cell. -/
def Obligations.WrapperCommandsFollowTheHphaseTable : Prop :=
  ∀ (i : Instr) (s : State) (a : Alg), s.rej = false → Alg.ofCode s.sel = some a →
    ∃ (t : State) (status data : Byte), exec i s = .next t ∧ t.out = s.out ++ [status ++ data] ∧
      t.hphase = (hphaseCell s.hphase i).1 ∧ status ∈ (hphaseCell s.hphase i).2 ∧
      (status ≠ 0 → t.hphase = s.hphase ∧ t.kbuf = s.kbuf ∧ t.klen = s.klen ∧ t.inner = s.inner ∧ t.outer = s.outer)

/-- The independence of the instances (20_memory.md section 5) and the writers of each register (10_state.md section 10). -/
def Obligations.EngineAndWrapperCommandsTouchTheirOwnSide : Prop :=
  ∀ (i : Instr) (s t : State), exec i s = .next t →
    t.sel = s.sel ∧ t.rej = s.rej ∧ t.input = s.input ∧ (∃ w, t.out = s.out ++ [w]) ∧
    (isEngineCommand i = true → t.inner = s.inner ∧ t.outer = s.outer ∧ t.hphase = s.hphase ∧ t.kbuf = s.kbuf ∧
      t.klen = s.klen) ∧
    (isEngineCommand i = false → t.eng = s.eng) ∧
    (i ≠ .hmfin → t.outer = s.outer) ∧
    (i ≠ .hkinit → (∀ b, i ≠ .hkupd b) → t.klen = s.klen ∧ (i ≠ .hkfin → t.kbuf = s.kbuf)) ∧
    (∀ k, i = .rdd k ∨ i = .rds k ∨ i = .hrdm k →
      t.eng = s.eng ∧ t.inner = s.inner ∧ t.outer = s.outer ∧ t.hphase = s.hphase ∧ t.kbuf = s.kbuf ∧ t.klen = s.klen)

/-- A HOST may interleave a plain hash with an HMAC computation (46_hmac.md section 4, 70_reset_and_hazards.md section 2). RDS is left out because it reads HPHASE and ERR. -/
def Obligations.EngineAndWrapperCommandsCommute : Prop :=
  ∀ (i j : Instr) (s : State), isEngineCommand i = true → (∀ n, i ≠ .rds n) → isEngineCommand j = false →
    ∃ (s1 s2 u1 u2 : State) (x y : Word),
      exec i s = .next s1 ∧ exec j s1 = .next s2 ∧ exec j s = .next u1 ∧ exec i u1 = .next u2 ∧
      s1.out = s.out ++ [x] ∧ s2.out = s.out ++ [x, y] ∧ u1.out = s.out ++ [y] ∧ u2 = { s2 with out := s.out ++ [y, x] }

/-- The invariants of 10_state.md section 3 (rule R29) and the sizes of section 10, over all states that meet them and all events. The arrays of the shapes the algorithm does not have are empty by the model's choice (log 8). -/
def Obligations.StepKeepsTheInvariant : Prop :=
  ∀ s t : State, StateInv s → step s = .next t → StateInv t

/-- 70_reset_and_hazards.md section 1; the values of the data registers are the model's (log 2), the statement rests on their sizes only. The strap of State.reset is the model's (log 1). -/
def Obligations.ResetMeetsTheInvariant : Prop :=
  (∀ algSel : BitVec 4, StateInv (State.resetWith algSel)) ∧ StateInv State.reset

/-- No command can read a register whose reset value is unspecified before it has been written (10_state.md section 10, rule R48); the states may hold any values there. -/
def Obligations.LooksAlikeIsKeptByEveryStep : Prop :=
  ∀ s t : State, StateInv s → StateInv t → LooksAlike s t →
    ∃ s' t', step s = .next s' ∧ step t = .next t' ∧ LooksAlike s' t' 

/-- 70_reset_and_hazards.md section 1 (rule R301): an unspecified register "cannot be observed". The statement holds for every value of the data registers and so rests on none the model names. -/
def Obligations.UnspecifiedResetValuesNeverReachTheHost : Prop :=
  ∀ (s t : State) (k : Nat), StateInv s → StateInv t →
    s.sel = t.sel → s.rej = t.rej → s.err = t.err → s.input = t.input → s.out = t.out →
    s.eng.phase = .uninit → t.eng.phase = .uninit → s.hphase = .noKey → t.hphase = .noKey →
    ∃ s' t', Host.Core.run core k s = .next s' ∧ Host.Core.run core k t = .next t' ∧ s'.out = t'.out

/-- 10_state.md rule R29 (and with it the count of 40_engine_commands.md rule R129). -/
def Obligations.ReadyInstanceIsDeterminedByItsMessage : Prop :=
  ∀ (a : Alg) (e0 e : Engine) (msg : List Byte), e = absorbBytes a (engInit a e0) msg →
    e.phase = .ready ∧ e.bitlen = 8 * msg.length ∧ e.buflen = msg.length % a.B ∧ e.buflen < a.B ∧
    e.buf.length = a.B ∧ e.buf.take e.buflen = msg.drop (msg.length / a.B * a.B) ∧
    e.h32 = (compressBlocks a (engInit a e0) msg).h32 ∧ e.h64 = (compressBlocks a (engInit a e0) msg).h64 ∧
    e.x = (compressBlocks a (engInit a e0) msg).x ∧ e.c = (compressBlocks a (engInit a e0) msg).c

/-- digest(ALG, M) is a function of ALG and M alone (40_engine_commands.md section 7): streaming equals the whole-message function `digestOf`. -/
def Obligations.StreamingEngineEqualsWholeMessageDigest : Prop :=
  ∀ (a : Alg) (e : Engine) (msg : List Byte),
    (engFinalize a (absorbBytes a (engInit a e) msg)).digest = digestOf a msg

/-- digest(ALG, M) as the HOST reads it (40_engine_commands.md section 7, 30_encoding.md section 5): it depends on nothing that came before, so re-initialisation is idempotent. -/
def Obligations.HashCommandsDeliverTheDigest : Prop :=
  ∀ (s : State) (a : Alg) (msg : List Byte), s.rej = false → Alg.ofCode s.sel = some a → msg.length ≤ maxBytes a →
    ∃ t, Host.Core.run core (msg.length + 2 + a.DL) (s.sending (hashCommands msg ++ rddAllCommands a)) = .next t ∧
      t.out = s.out ++ List.replicate (msg.length + 2) 0x0000 ++
        (digestOf a msg).map (fun d => BitVec.ofNat 16 d.toNat) ∧
      t.eng.phase = .final ∧ t.eng.digest = digestOf a msg ∧ t.err = s.err ∧ t.input = s.input ∧
      t.inner = s.inner ∧ t.outer = s.outer ∧ t.kbuf = s.kbuf ∧ t.klen = s.klen ∧ t.hphase = s.hphase

/-- 46_hmac.md section 2 (rule R247) with K0 of section 1. -/
def Obligations.KeyCommandsLeaveTheKeyBlock : Prop :=
  ∀ (s : State) (a : Alg) (key : List Byte), s.rej = false → Alg.ofCode s.sel = some a → key.length ≤ maxBytes a →
    ∃ t, Host.Core.run core (key.length + 2) (s.sending (hkeyCommands key)) = .next t ∧
      t.kbuf = keyBlock a key ∧ t.kbuf.length = a.B ∧ t.hphase = .keyed ∧ t.eng = s.eng ∧ t.outer = s.outer ∧
      t.err = s.err ∧ t.sel = s.sel ∧ t.rej = s.rej ∧ t.input = s.input ∧
      t.out = s.out ++ List.replicate (key.length + 2) 0x0000

/-- 46_hmac.md section 3 (rules R251, R253) with the construction of section 1. -/
def Obligations.MessageCommandsLeaveTheMac : Prop :=
  ∀ (s : State) (a : Alg) (msg : List Byte), s.rej = false → Alg.ofCode s.sel = some a →
    s.hphase = .keyed ∨ s.hphase = .msg ∨ s.hphase = .done → s.kbuf.length = a.B → msg.length + a.B ≤ maxBytes a →
    ∃ t, Host.Core.run core (msg.length + 2) (s.sending (hmsgCommands msg)) = .next t ∧
      t.outer.digest = macOf a s.kbuf msg ∧ t.hphase = .done ∧ t.kbuf = s.kbuf ∧ t.klen = s.klen ∧ t.eng = s.eng ∧
      t.err = s.err ∧ t.sel = s.sel ∧ t.rej = s.rej ∧ t.input = s.input ∧
      t.out = s.out ++ List.replicate (msg.length + 2) 0x0000

/-- The HMAC construction for several data items under one key (46_hmac.md sections 1 to 3, 30_encoding.md section 5). -/
def Obligations.HmacCommandsDeliverOneMacPerItem : Prop :=
  ∀ (s : State) (a : Alg) (key : List Byte) (msgs : List (List Byte)),
    s.rej = false → Alg.ofCode s.sel = some a → key.length ≤ maxBytes a →
    (∀ m ∈ msgs, m.length + a.B ≤ maxBytes a) →
    ∃ t, Host.Core.run core (hmacCommands a key msgs).length (s.sending (hmacCommands a key msgs)) = .next t ∧
      t.out = s.out ++ List.replicate (key.length + 2) 0x0000 ++
        msgs.flatMap (fun m => List.replicate (m.length + 2) 0x0000 ++
          (hmacOf a key m).map (fun d => BitVec.ofNat 16 d.toNat)) ∧
      t.kbuf = keyBlock a key ∧ t.eng = s.eng ∧ t.err = s.err ∧ t.input = s.input

/-- 40_engine_commands.md rule R134. -/
def Obligations.DigestHasTheTableLength : Prop :=
  (∀ (a : Alg) (e : Engine), EngineWf a e → (engFinalize a e).digest.length = a.DL) ∧
  (∀ (a : Alg) (msg : List Byte), (digestOf a msg).length = a.DL) ∧
  (∀ (s : State) (a : Alg) (i : Byte), s.rej = false → Alg.ofCode s.sel = some a → s.eng.phase = .final →
    (exec (.rdd i) s = .next (afterRefusal .idx s) ↔ a.DL ≤ i.toNat))

/-- 41_padding_and_digest.md rule R157. -/
def Obligations.PaddingTakesOneOrTwoBlocks : Prop :=
  ∀ (a : Alg) (m : List Byte) (l : Nat), m.length < a.B →
    (a ≠ .md2 → m.length ≤ a.B - a.LF - 1 → (padTail a m l).length = a.B ∧ (blocksOf a.B (padTail a m l)).length = 1) ∧
    (a ≠ .md2 → a.B - a.LF ≤ m.length → (padTail a m l).length = 2 * a.B ∧ (blocksOf a.B (padTail a m l)).length = 2) ∧
    (a = .md2 → (padTail a m l).length = 16 ∧ (blocksOf a.B (padTail a m l)).length = 1)

/-- 41_padding_and_digest.md rule R156: the FSM and the function of rule R150 agree. -/
def Obligations.PaddingFsmAgreesWithEngFinalize : Prop :=
  ∀ (a : Alg) (e : Engine), e.buflen < a.B → e.buf.length = a.B →
    (padFsmRun a e).st = .done ∧ (padFsmRun a e).eng = engFinalize a e

/-- The first two lines of the pseudocode of 43_sha1.md. -/
def Obligations.Sha1ScheduleRecurrence : Prop :=
  ∀ blk : List Byte, (sha1Schedule blk).length = 80 ∧
    (∀ j < 16, (sha1Schedule blk)[j]? = some (be32 ((blk.drop (4 * j)).take 4))) ∧
    (∀ j, 16 ≤ j → j < 80 → ∀ w3 w8 w14 w16, (sha1Schedule blk)[j - 3]? = some w3 →
      (sha1Schedule blk)[j - 8]? = some w8 → (sha1Schedule blk)[j - 14]? = some w14 →
      (sha1Schedule blk)[j - 16]? = some w16 →
      (sha1Schedule blk)[j]? = some ((w3 ^^^ w8 ^^^ w14 ^^^ w16).rotateLeft 1))

/-- 44_sha2_32.md rule R215; the amounts of SSIG0 and SSIG1 are those of rule R214. -/
def Obligations.Sha256ScheduleRecurrence : Prop :=
  ∀ blk : List Byte, (sha256Schedule blk).length = 64 ∧
    (∀ j < 16, (sha256Schedule blk)[j]? = some (be32 ((blk.drop (4 * j)).take 4))) ∧
    (∀ j, 16 ≤ j → j < 64 → ∀ w2 w7 w15 w16 : W32, (sha256Schedule blk)[j - 2]? = some w2 →
      (sha256Schedule blk)[j - 7]? = some w7 → (sha256Schedule blk)[j - 15]? = some w15 →
      (sha256Schedule blk)[j - 16]? = some w16 →
      (sha256Schedule blk)[j]? = some ((w2.rotateRight 17 ^^^ (w2.rotateRight 19 ^^^ w2 >>> 10)) + w7 +
        (w15.rotateRight 7 ^^^ (w15.rotateRight 18 ^^^ w15 >>> 3)) + w16))

/-- 45_sha2_64.md rule R233; the amounts of SSIG0 and SSIG1 are those of rule R232. -/
def Obligations.Sha512ScheduleRecurrence : Prop :=
  ∀ blk : List Byte, (sha512Schedule blk).length = 80 ∧
    (∀ j < 16, (sha512Schedule blk)[j]? = some (be64 ((blk.drop (8 * j)).take 8))) ∧
    (∀ j, 16 ≤ j → j < 80 → ∀ w2 w7 w15 w16 : W64, (sha512Schedule blk)[j - 2]? = some w2 →
      (sha512Schedule blk)[j - 7]? = some w7 → (sha512Schedule blk)[j - 15]? = some w15 →
      (sha512Schedule blk)[j - 16]? = some w16 →
      (sha512Schedule blk)[j]? = some ((w2.rotateRight 19 ^^^ (w2.rotateRight 61 ^^^ w2 >>> 6)) + w7 +
        (w15.rotateRight 1 ^^^ (w15.rotateRight 8 ^^^ w15 >>> 7)) + w16))

/-- The conversions of 00_scope.md rule R10 on 4 and 8 bytes (its to_le64 and to_be128 are not in this statement). -/
def Obligations.ByteAndWordConversionsAreInverse : Prop :=
  (∀ b0 b1 b2 b3 : Byte,
    (le32 [b0, b1, b2, b3]).toNat = b0.toNat + 2 ^ 8 * b1.toNat + 2 ^ 16 * b2.toNat + 2 ^ 24 * b3.toNat ∧
    (be32 [b0, b1, b2, b3]).toNat = 2 ^ 24 * b0.toNat + 2 ^ 16 * b1.toNat + 2 ^ 8 * b2.toNat + b3.toNat ∧
    toLe32 (le32 [b0, b1, b2, b3]) = [b0, b1, b2, b3] ∧ toBe32 (be32 [b0, b1, b2, b3]) = [b0, b1, b2, b3]) ∧
  (∀ b0 b1 b2 b3 b4 b5 b6 b7 : Byte,
    (be64 [b0, b1, b2, b3, b4, b5, b6, b7]).toNat = 2 ^ 56 * b0.toNat + 2 ^ 48 * b1.toNat + 2 ^ 40 * b2.toNat +
      2 ^ 32 * b3.toNat + 2 ^ 24 * b4.toNat + 2 ^ 16 * b5.toNat + 2 ^ 8 * b6.toNat + b7.toNat ∧
    toBe64 (be64 [b0, b1, b2, b3, b4, b5, b6, b7]) = [b0, b1, b2, b3, b4, b5, b6, b7]) ∧
  (∀ w : W32, le32 (toLe32 w) = w ∧ be32 (toBe32 w) = w) ∧
  (∀ w : W64, be64 (toBe64 w) = w ∧ (toBe64 w).length = 8)

/-- 30_encoding.md rule R101, its first sentence; its second (a failing source stops the HOST) is about the HOST alone and adds no command. -/
def Obligations.HashStreamIsHashWhateverTheChunk : Prop :=
  ∀ (chunk : Nat) (s : List Byte), 0 < chunk → hashStreamCommands chunk s = hashCommands s

/-- The results of the traces in 42_md_family.md, 43_sha1.md, 44_sha2_32.md and 45_sha2_64.md (worked examples; the intermediate steps are not stated). -/
def Obligations.WorkedExamplesOfTheCompressors : Prop :=
  compressMd5 Rom.ivMd ([0x61, 0x62, 0x63, 0x80] ++ rep 0 52 ++ [0x18, 0, 0, 0, 0, 0, 0, 0]) =
    [0x98500190, 0xb04fd23c, 0x7d3f96d6, 0x727fe128] ∧
  compressMd4 Rom.ivMd ([0x61, 0x62, 0x63, 0x80] ++ rep 0 52 ++ [0x18, 0, 0, 0, 0, 0, 0, 0]) =
    [0x7a0148a4, 0x52d821af, 0xe80ac15f, 0x9d72a67a] ∧
  (compressMd2 (rep 0 48) (rep 0 16) ([0x61, 0x62, 0x63] ++ rep 0x0d 13)).1.take 16 =
    [0x13, 0xbe, 0xa5, 0x37, 0x47, 0x03, 0xbd, 0x18, 0x1a, 0x7c, 0x9d, 0x17, 0x29, 0x31, 0x00, 0xe3] ∧
  (compressMd2 (rep 0 48) (rep 0 16) ([0x61, 0x62, 0x63] ++ rep 0x0d 13)).2 =
    [0x19, 0xe2, 0x9d, 0x1b, 0x73, 0x04, 0x36, 0x8e, 0x59, 0x5a, 0x27, 0x6f, 0x30, 0x2f, 0x57, 0xcc] ∧
  compressSha1 Rom.ivSha1 ([0x61, 0x62, 0x63, 0x80] ++ rep 0 59 ++ [0x18]) =
    [0xa9993e36, 0x4706816a, 0xba3e2571, 0x7850c26c, 0x9cd0d89d] ∧
  compressSha256 Rom.iv256 ([0x61, 0x62, 0x63, 0x80] ++ rep 0 59 ++ [0x18]) =
    [0xba7816bf, 0x8f01cfea, 0x414140de, 0x5dae2223, 0xb00361a3, 0x96177a9c, 0xb410ff61, 0xf20015ad] ∧
  compressSha256 Rom.iv224 ([0x61, 0x62, 0x63, 0x80] ++ rep 0 59 ++ [0x18]) =
    [0x23097d22, 0x3405d822, 0x8642a477, 0xbda255b3, 0x2aadbce4, 0xbda0b3f7, 0xe36c9da7, 0xd2da082d] ∧
  compressSha512 Rom.iv512 ([0x61, 0x62, 0x63, 0x80] ++ rep 0 123 ++ [0x18]) =
    [0xddaf35a193617aba, 0xcc417349ae204131, 0x12e6fa4e89a97ea2, 0x0a9eeee64b55d39a,
     0x2192992a274fc1a8, 0x36ba3c23a3feebbd, 0x454d4423643ce80e, 0x2a9ac94fa54ca49f] ∧
  compressSha512 Rom.iv384 ([0x61, 0x62, 0x63, 0x80] ++ rep 0 123 ++ [0x18]) =
    [0xcb00753f45a35e8b, 0xb5a03d699ac65007, 0x272c32ab0eded163, 0x1a8b605a43ff5bed,
     0x8086072ba1e7cc23, 0x58baeca134c825a7, 0xa303edfdf3b89cd7, 0x0c66918ece57ba15] ∧
  compressSha512 Rom.iv512_224 ([0x61, 0x62, 0x63, 0x80] ++ rep 0 123 ++ [0x18]) =
    [0x4634270f707b6a54, 0xdaae7530460842e2, 0x0e37ed265ceee9a4, 0x3e8924aaf57c93d9,
     0x21b1998c870fc454, 0x2b78ab140e3c5c5c, 0x3d7d0e514a0f33fe, 0x1659eb86a7d9f03e] ∧
  compressSha512 Rom.iv512_256 ([0x61, 0x62, 0x63, 0x80] ++ rep 0 123 ++ [0x18]) =
    [0x53048e2681941ef9, 0x9b2e29b76b4c7dab, 0xe4c2d0c634fc6d46, 0xe0e2f13107e7af23,
     0x0e35949b85d8f387, 0x2007b3491c26c06d, 0x82914c0c30ef079b, 0xa3656a19dd7f0618]

/-- The tables of 00_scope.md section 4, 30_encoding.md section 3 and 42_md_family.md section 4. -/
def Obligations.ParametersAreTheTableOfTheTenAlgorithms : Prop :=
  ((List.range 16).map fun n => Alg.ofCode (BitVec.ofNat 4 n)) =
    [some .md2, some .md4, some .md5, some .sha1, some .sha2_224, some .sha2_256, some .sha2_384, some .sha2_512,
     some .sha2_512_224, some .sha2_512_256, none, none, none, none, none, none] ∧
  ([Alg.md2, .md4, .md5, .sha1, .sha2_224, .sha2_256, .sha2_384, .sha2_512, .sha2_512_224, .sha2_512_256].map
      fun a => (a.B, a.DL, a.LW, a.NR)) =
    [(16, 16, 64, 18), (64, 16, 64, 48), (64, 16, 64, 64), (64, 20, 64, 80), (64, 28, 64, 64), (64, 32, 64, 64),
     (128, 48, 128, 80), (128, 64, 128, 80), (128, 28, 128, 80), (128, 32, 128, 80)] ∧
  (∀ v : Byte, ∃ t : Byte, Rom.md2S t = v) ∧
  (∀ a : Alg, a.DL ≤ a.B)

/-- 42_md_family.md rules R175, R182 and R190. -/
def Obligations.MdFamilyCompressionsFollowTheirSteps : Prop :=
  (∀ (h0 h1 h2 h3 : W32) (blk : List Byte), ∃ a b c d : Nat → W32,
    a 0 = h0 ∧ b 0 = h1 ∧ c 0 = h2 ∧ d 0 = h3 ∧
    (∀ i < 64, a (i + 1) = d i ∧ c (i + 1) = b i ∧ d (i + 1) = c i ∧
      b (i + 1) = b i + (a i +
        (if i ≤ 15 then (b i &&& c i) ||| (~~~ b i &&& d i)
          else if i ≤ 31 then (b i &&& d i) ||| (c i &&& ~~~ d i)
          else if i ≤ 47 then b i ^^^ (c i ^^^ d i) else c i ^^^ (b i ||| ~~~ d i)) +
        le32 ((blk.drop (4 * Rom.md5G.getD i 0)).take 4) + Rom.md5K.getD i 0).rotateLeft (Rom.md5S.getD i 0)) ∧
    compressMd5 [h0, h1, h2, h3] blk = [h0 + a 64, h1 + b 64, h2 + c 64, h3 + d 64]) ∧
  (∀ (h0 h1 h2 h3 : W32) (blk : List Byte), ∃ a b c d : Nat → W32,
    a 0 = h0 ∧ b 0 = h1 ∧ c 0 = h2 ∧ d 0 = h3 ∧
    (∀ i < 48, a (i + 1) = d i ∧ c (i + 1) = b i ∧ d (i + 1) = c i ∧
      b (i + 1) = (a i +
        (if i ≤ 15 then (b i &&& c i) ||| (~~~ b i &&& d i)
          else if i ≤ 31 then (b i &&& c i) ||| ((b i &&& d i) ||| (c i &&& d i)) else b i ^^^ (c i ^^^ d i)) +
        le32 ((blk.drop (4 * Rom.md4G.getD i 0)).take 4) +
        (if i ≤ 15 then 0x00000000 else if i ≤ 31 then 0x5a827999 else 0x6ed9eba1)).rotateLeft (Rom.md4S.getD i 0)) ∧
    compressMd4 [h0, h1, h2, h3] blk = [h0 + a 48, h1 + b 48, h2 + c 48, h3 + d 48]) ∧
  (∀ x c blk : List Byte, x.length = 48 → c.length = 16 → blk.length = 16 →
    ∃ (p : Nat → List Byte) (t : Nat → Byte),
      p 0 = x.take 16 ++ blk ++ List.zipWith (· ^^^ ·) (x.take 16) blk ∧ t 0 = 0 ∧
      (∀ j < 18, (p (j + 1)).length = 48 ∧
        (∀ k < 48, (p (j + 1)).getD k 0 =
          (p j).getD k 0 ^^^ Rom.md2S (if k = 0 then t j else (p (j + 1)).getD (k - 1) 0)) ∧
        t (j + 1) = (p (j + 1)).getD 47 0 + BitVec.ofNat 8 j) ∧
      (compressMd2 x c blk).1 = p 18 ∧ (compressMd2 x c blk).2.length = 16 ∧
      (∀ j < 16, (compressMd2 x c blk).2.getD j 0 =
        c.getD j 0 ^^^ Rom.md2S (blk.getD j 0 ^^^
          (if j = 0 then c.getD 15 0 else (compressMd2 x c blk).2.getD (j - 1) 0))))

/-- 43_sha1.md rule R204, 44_sha2_32.md rule R216 and 45_sha2_64.md rule R231. -/
def Obligations.ShaCompressionsFollowTheirRounds : Prop :=
  (∀ (h0 h1 h2 h3 h4 : W32) (blk : List Byte), ∃ w a b c d e : Nat → W32,
    (∀ j < 16, w j = be32 ((blk.drop (4 * j)).take 4)) ∧
    (∀ j, 16 ≤ j → j < 80 → w j = (w (j - 3) ^^^ w (j - 8) ^^^ w (j - 14) ^^^ w (j - 16)).rotateLeft 1) ∧
    a 0 = h0 ∧ b 0 = h1 ∧ c 0 = h2 ∧ d 0 = h3 ∧ e 0 = h4 ∧
    (∀ i < 80,
      a (i + 1) = (a i).rotateLeft 5 +
        (if i / 20 = 0 then (b i &&& c i) ||| (~~~ b i &&& d i)
          else if i / 20 = 2 then (b i &&& c i) ||| ((b i &&& d i) ||| (c i &&& d i)) else b i ^^^ (c i ^^^ d i)) +
        e i + [0x5a827999, 0x6ed9eba1, 0x8f1bbcdc, 0xca62c1d6].getD (i / 20) 0 + w i ∧
      b (i + 1) = a i ∧ c (i + 1) = (b i).rotateLeft 30 ∧ d (i + 1) = c i ∧ e (i + 1) = d i) ∧
    compressSha1 [h0, h1, h2, h3, h4] blk = [h0 + a 80, h1 + b 80, h2 + c 80, h3 + d 80, h4 + e 80]) ∧
  (∀ (h0 h1 h2 h3 h4 h5 h6 h7 : W32) (blk : List Byte), ∃ a b c d e f g h : Nat → W32,
    a 0 = h0 ∧ b 0 = h1 ∧ c 0 = h2 ∧ d 0 = h3 ∧ e 0 = h4 ∧ f 0 = h5 ∧ g 0 = h6 ∧ h 0 = h7 ∧
    (∀ i < 64, ∃ t1 t2 : W32,
      t1 = h i + ((e i).rotateRight 6 ^^^ ((e i).rotateRight 11 ^^^ (e i).rotateRight 25)) +
        ((e i &&& f i) ^^^ (~~~ e i &&& g i)) + Rom.k256.getD i 0 + (sha256Schedule blk).getD i 0 ∧
      t2 = ((a i).rotateRight 2 ^^^ ((a i).rotateRight 13 ^^^ (a i).rotateRight 22)) +
        ((a i &&& b i) ^^^ ((a i &&& c i) ^^^ (b i &&& c i))) ∧
      a (i + 1) = t1 + t2 ∧ b (i + 1) = a i ∧ c (i + 1) = b i ∧ d (i + 1) = c i ∧
      e (i + 1) = d i + t1 ∧ f (i + 1) = e i ∧ g (i + 1) = f i ∧ h (i + 1) = g i) ∧
    compressSha256 [h0, h1, h2, h3, h4, h5, h6, h7] blk =
      [h0 + a 64, h1 + b 64, h2 + c 64, h3 + d 64, h4 + e 64, h5 + f 64, h6 + g 64, h7 + h 64]) ∧
  (∀ (h0 h1 h2 h3 h4 h5 h6 h7 : W64) (blk : List Byte), ∃ a b c d e f g h : Nat → W64,
    a 0 = h0 ∧ b 0 = h1 ∧ c 0 = h2 ∧ d 0 = h3 ∧ e 0 = h4 ∧ f 0 = h5 ∧ g 0 = h6 ∧ h 0 = h7 ∧
    (∀ i < 80, ∃ t1 t2 : W64,
      t1 = h i + ((e i).rotateRight 14 ^^^ ((e i).rotateRight 18 ^^^ (e i).rotateRight 41)) +
        ((e i &&& f i) ^^^ (~~~ e i &&& g i)) + Rom.k512.getD i 0 + (sha512Schedule blk).getD i 0 ∧
      t2 = ((a i).rotateRight 28 ^^^ ((a i).rotateRight 34 ^^^ (a i).rotateRight 39)) +
        ((a i &&& b i) ^^^ ((a i &&& c i) ^^^ (b i &&& c i))) ∧
      a (i + 1) = t1 + t2 ∧ b (i + 1) = a i ∧ c (i + 1) = b i ∧ d (i + 1) = c i ∧
      e (i + 1) = d i + t1 ∧ f (i + 1) = e i ∧ g (i + 1) = f i ∧ h (i + 1) = g i) ∧
    compressSha512 [h0, h1, h2, h3, h4, h5, h6, h7] blk =
      [h0 + a 80, h1 + b 80, h2 + c 80, h3 + d 80, h4 + e 80, h5 + f 80, h6 + g 80, h7 + h 80])
end

