-- ==== Sys2Proof/Laws/Engine.lean ====
section
/-! SUPPORT. What the engine micro-operations do to each register of an instance, and that they keep `EngineWf`. -/

namespace Sys2Proof.Machine

/-! ### The sizes of the table of 00_scope.md rule R6 -/

@[simp] theorem rep_length (v : Byte) (n : Nat) : (rep v n).length = n := by simp [rep]

theorem B_pos (a : Alg) : 0 < a.B := by cases a <;> decide

theorem DL_le_B (a : Alg) : a.DL ≤ a.B := by cases a <;> decide

theorem LF_lt_B (a : Alg) : a.LF < a.B := by cases a <;> decide

theorem blockBits_lt_limit (a : Alg) : 8 * (a.B + a.DL) < 2 ^ a.LW := by cases a <;> decide

/-- The BitLength counter is a whole number of bytes wide enough for the bound of 40_engine_commands.md rule R125. -/
theorem limit_eq (a : Alg) : 2 ^ a.LW = 8 * (maxBytes a + 1) := by cases a <;> decide

/-! ### Byte sequences -/

@[simp] theorem leBytes_length (n v : Nat) : (leBytes n v).length = n := by
  induction n generalizing v with
  | zero => rfl
  | succ n ih => simp [leBytes, ih]

@[simp] theorem beBytes_length (n v : Nat) : (beBytes n v).length = n := by simp [beBytes]

@[simp] theorem toLe32_length (w : W32) : (toLe32 w).length = 4 := leBytes_length 4 _

@[simp] theorem toBe32_length (w : W32) : (toBe32 w).length = 4 := beBytes_length 4 _

@[simp] theorem toBe64_length (w : W64) : (toBe64 w).length = 8 := beBytes_length 8 _

@[simp] theorem xorb_length (s : List Byte) (v : Byte) : (xorb s v).length = s.length := by simp [xorb]

theorem flatMap_length_of_const {α : Type} (f : α → List Byte) (n : Nat) (h : ∀ x, (f x).length = n) (l : List α) :
    (l.flatMap f).length = n * l.length := by
  induction l with
  | nil => simp
  | cons x l ih => simp [ih, h]; ring

/-! ### The compression functions: lengths -/

theorem md2Pass_length (v : List Byte) (t : Byte) : (md2Pass v t).1.length = v.length := by
  induction v generalizing t with
  | nil => rfl
  | cons x v ih => simp [md2Pass, ih]

theorem md2Rounds_length (js : List Nat) (v : List Byte × Byte) : (js.foldl md2Round v).1.length = v.1.length := by
  induction js generalizing v with
  | nil => rfl
  | cons j js ih => rw [List.foldl_cons, ih]; exact md2Pass_length _ _

theorem md2Checksum_length (c blk : List Byte) (l : Byte) : (md2Checksum c blk l).length = c.length := by
  induction c generalizing blk l with
  | nil => rfl
  | cons x c ih => cases blk <;> simp [md2Checksum, ih]

/-- The state of MD2 has 48 bytes after a compression when it and the block had enough bytes (42_md_family.md rule R190). -/
theorem compressMd2_x_length (x c blk : List Byte) (hx : 16 ≤ x.length) (hb : 16 ≤ blk.length) :
    (compressMd2 x c blk).1.length = 48 := by
  simp [compressMd2, md2Rounds_length, md2Load]; omega

theorem compressMd2_c_length (x c blk : List Byte) : (compressMd2 x c blk).2.length = c.length :=
  md2Checksum_length _ _ _

/-! ### compress: only the working registers change (40_engine_commands.md rule R124) -/

@[simp] theorem compress_buf (a : Alg) (e : Engine) (blk : List Byte) : (compress a e blk).buf = e.buf := by
  cases a <;> simp only [compress]
@[simp] theorem compress_buflen (a : Alg) (e : Engine) (blk : List Byte) : (compress a e blk).buflen = e.buflen := by
  cases a <;> simp only [compress]
@[simp] theorem compress_bitlen (a : Alg) (e : Engine) (blk : List Byte) : (compress a e blk).bitlen = e.bitlen := by
  cases a <;> simp only [compress]
@[simp] theorem compress_phase (a : Alg) (e : Engine) (blk : List Byte) : (compress a e blk).phase = e.phase := by
  cases a <;> simp only [compress]
@[simp] theorem compress_digest (a : Alg) (e : Engine) (blk : List Byte) : (compress a e blk).digest = e.digest := by
  cases a <;> simp only [compress]

/-- The working registers have the sizes of the configured algorithm (10_state.md rules R22, R23). -/
structure RegsSized (a : Alg) (e : Engine) : Prop where
  h32_length : e.h32.length = numH32 a
  h64_length : e.h64.length = numH64 a
  x_length : e.x.length = numX a
  c_length : e.c.length = numC a

theorem EngineWf.sized {a : Alg} {e : Engine} (h : EngineWf a e) : RegsSized a e :=
  ⟨h.h32_length, h.h64_length, h.x_length, h.c_length⟩

/-- A compression keeps the sizes of the working registers, whatever block it is given of at least B bytes. -/
theorem compress_sized (a : Alg) (e : Engine) (blk : List Byte) (h : RegsSized a e) (hb : a.B ≤ blk.length) :
    RegsSized a (compress a e blk) := by
  obtain ⟨h1, h2, h3, h4⟩ := h
  cases a
  case md2 =>
    refine ⟨?_, ?_, ?_, ?_⟩ <;> simp only [compress]
    · exact h1
    · exact h2
    · exact compressMd2_x_length _ _ _ (by rw [h3]; decide) hb
    · exact (compressMd2_c_length _ _ _).trans h4
  all_goals
    refine ⟨?_, ?_, ?_, ?_⟩ <;> simp only [compress] <;> first | assumption | (simp only [compressMd4, compressMd5,
      compressSha1, compressSha256, compressSha512, feedForward4, feedForward8]; rfl)

/-! ### Several compressions -/

theorem compressMany_keeps (a : Alg) (blks : List (List Byte)) (e : Engine) :
    (blks.foldl (compress a) e).buf = e.buf ∧ (blks.foldl (compress a) e).buflen = e.buflen ∧
    (blks.foldl (compress a) e).bitlen = e.bitlen ∧ (blks.foldl (compress a) e).phase = e.phase ∧
    (blks.foldl (compress a) e).digest = e.digest := by
  induction blks generalizing e with
  | nil => exact ⟨rfl, rfl, rfl, rfl, rfl⟩
  | cons b blks ih => simpa using ih (compress a e b)

theorem compressMany_sized (a : Alg) (blks : List (List Byte)) (e : Engine) (h : RegsSized a e)
    (hb : ∀ b ∈ blks, a.B ≤ b.length) : RegsSized a (blks.foldl (compress a) e) := by
  induction blks generalizing e with
  | nil => exact h
  | cons b blks ih =>
    exact ih _ (compress_sized a e b h (hb b (by simp))) fun b' hb' => hb b' (by simp [hb'])

/-- The blocks of 41_padding_and_digest.md rule R150 have B bytes each. -/
theorem blocksOf_length_mem (B : Nat) (s b : List Byte) (hb : b ∈ blocksOf B s) : b.length = B := by
  simp only [blocksOf, List.mem_map, List.mem_range] at hb
  obtain ⟨k, hk, rfl⟩ := hb
  have h1 : (k + 1) * B ≤ s.length / B * B := Nat.mul_le_mul_right _ hk
  have h2 := Nat.div_mul_le_self s.length B
  simp [slice]; rw [Nat.add_mul] at h1; omega

@[simp] theorem compressBlocks_buf (a : Alg) (e : Engine) (s : List Byte) : (compressBlocks a e s).buf = e.buf :=
  (compressMany_keeps a _ e).1
@[simp] theorem compressBlocks_buflen (a : Alg) (e : Engine) (s : List Byte) :
    (compressBlocks a e s).buflen = e.buflen := (compressMany_keeps a _ e).2.1
@[simp] theorem compressBlocks_bitlen (a : Alg) (e : Engine) (s : List Byte) :
    (compressBlocks a e s).bitlen = e.bitlen := (compressMany_keeps a _ e).2.2.1
@[simp] theorem compressBlocks_phase (a : Alg) (e : Engine) (s : List Byte) :
    (compressBlocks a e s).phase = e.phase := (compressMany_keeps a _ e).2.2.2.1
@[simp] theorem compressBlocks_digest (a : Alg) (e : Engine) (s : List Byte) :
    (compressBlocks a e s).digest = e.digest := (compressMany_keeps a _ e).2.2.2.2

theorem compressBlocks_sized (a : Alg) (e : Engine) (s : List Byte) (h : RegsSized a e) :
    RegsSized a (compressBlocks a e s) :=
  compressMany_sized a _ e h fun b hb => (blocksOf_length_mem a.B s b hb).ge

@[simp] theorem compressChecksum_buf (a : Alg) (e : Engine) : (compressChecksum a e).buf = e.buf := by
  cases a <;> simp [compressChecksum]
@[simp] theorem compressChecksum_bitlen (a : Alg) (e : Engine) : (compressChecksum a e).bitlen = e.bitlen := by
  cases a <;> simp [compressChecksum]

theorem compressChecksum_sized (a : Alg) (e : Engine) (h : RegsSized a e) : RegsSized a (compressChecksum a e) := by
  cases a
  case md2 => exact compress_sized .md2 e _ h (by simp [h.c_length, numC, Alg.B, Alg.params])
  all_goals exact h

/-! ### loadIv and eng_init (40_engine_commands.md rule R121) -/

@[simp] theorem loadIv_digest (a : Alg) (e : Engine) : (loadIv a e).digest = e.digest := by cases a <;> rfl

theorem loadIv_sized (a : Alg) (e : Engine) (h : RegsSized a e) : RegsSized a (loadIv a e) := by
  obtain ⟨h1, h2, h3, h4⟩ := h
  cases a <;> exact ⟨by first | exact h1 | rfl, by first | exact h2 | rfl, by first | exact h3 | rfl,
    by first | exact h4 | rfl⟩

@[simp] theorem engInit_phase (a : Alg) (e : Engine) : (engInit a e).phase = .ready := rfl
@[simp] theorem engInit_buf (a : Alg) (e : Engine) : (engInit a e).buf = rep 0 a.B := rfl
@[simp] theorem engInit_buflen (a : Alg) (e : Engine) : (engInit a e).buflen = 0 := rfl
@[simp] theorem engInit_bitlen (a : Alg) (e : Engine) : (engInit a e).bitlen = 0 := rfl
@[simp] theorem engInit_digest (a : Alg) (e : Engine) : (engInit a e).digest = e.digest := loadIv_digest a e

theorem engInit_wf (a : Alg) (e : Engine) (h : EngineWf a e) : EngineWf a (engInit a e) := by
  have hs := loadIv_sized a e h.sized
  have hB := B_pos a
  exact ⟨hs.h32_length, hs.h64_length, hs.x_length, hs.c_length, by simp, by simpa using h.digest_length, hB,
    by simp, by simp, fun _ => by simp⟩

/-! ### eng_absorb (40_engine_commands.md rule R123) -/

@[simp] theorem engAbsorb_phase (a : Alg) (e : Engine) (b : Byte) : (engAbsorb a e b).phase = e.phase := by
  unfold engAbsorb; split <;> simp [storeByte]
@[simp] theorem engAbsorb_bitlen (a : Alg) (e : Engine) (b : Byte) : (engAbsorb a e b).bitlen = e.bitlen + 8 := by
  unfold engAbsorb; split <;> simp [storeByte]
@[simp] theorem engAbsorb_digest (a : Alg) (e : Engine) (b : Byte) : (engAbsorb a e b).digest = e.digest := by
  unfold engAbsorb; split <;> simp [storeByte]
@[simp] theorem engAbsorb_buf (a : Alg) (e : Engine) (b : Byte) : (engAbsorb a e b).buf = e.buf.set e.buflen b := by
  unfold engAbsorb; split <;> simp [storeByte]
theorem engAbsorb_buflen (a : Alg) (e : Engine) (b : Byte) :
    (engAbsorb a e b).buflen = if e.buflen + 1 = a.B then 0 else e.buflen + 1 := by
  unfold engAbsorb; split <;> simp

theorem storeByte_sized (a : Alg) (e : Engine) (b : Byte) (h : RegsSized a e) : RegsSized a (storeByte e b) :=
  ⟨h.h32_length, h.h64_length, h.x_length, h.c_length⟩

/-- Absorbing a byte within the limit keeps the shape of the instance (10_state.md rule R29). -/
theorem engAbsorb_wf (a : Alg) (e : Engine) (b : Byte) (h : EngineWf a e) (hl : lenOk a e = true) :
    EngineWf a (engAbsorb a e b) := by
  have hB := B_pos a
  have hbl := h.buflen_lt
  have hl' : e.bitlen + 8 ≤ 2 ^ a.LW - 1 := of_decide_eq_true hl
  have hs : RegsSized a (engAbsorb a e b) := by
    unfold engAbsorb; split
    · have := compress_sized a (storeByte e b) ((storeByte e b).buf.take a.B) (storeByte_sized a e b h.sized)
        (by simp [storeByte, h.buf_length])
      exact ⟨this.h32_length, this.h64_length, this.x_length, this.c_length⟩
    · exact ⟨h.h32_length, h.h64_length, h.x_length, h.c_length⟩
  refine ⟨hs.h32_length, hs.h64_length, hs.x_length, hs.c_length, by simp [h.buf_length], by simpa using h.digest_length,
    ?_, ?_, ?_, ?_⟩
  · rw [engAbsorb_buflen]; split <;> omega
  · rw [engAbsorb_bitlen]; omega
  · rw [engAbsorb_bitlen]; have := h.bitlen_bytes; omega
  · intro hp
    have hr := h.buflen_ready (by simpa using hp)
    rw [engAbsorb_buflen, engAbsorb_bitlen, show (e.bitlen + 8) / 8 = e.bitlen / 8 + 1 by omega, Nat.add_mod, ← hr]
    split
    · next h1 =>
      rw [Nat.add_mod_mod, h1, Nat.mod_self]
    · rw [Nat.add_mod_mod, Nat.mod_eq_of_lt (by omega)]

@[simp] theorem absorbBytes_nil (a : Alg) (e : Engine) : absorbBytes a e [] = e := rfl
@[simp] theorem absorbBytes_cons (a : Alg) (e : Engine) (b : Byte) (bs : List Byte) :
    absorbBytes a e (b :: bs) = absorbBytes a (engAbsorb a e b) bs := rfl
theorem absorbBytes_append (a : Alg) (e : Engine) (s t : List Byte) :
    absorbBytes a e (s ++ t) = absorbBytes a (absorbBytes a e s) t := List.foldl_append

theorem absorbBytes_keeps (a : Alg) (bs : List Byte) (e : Engine) :
    (absorbBytes a e bs).phase = e.phase ∧ (absorbBytes a e bs).digest = e.digest ∧
    (absorbBytes a e bs).bitlen = e.bitlen + 8 * bs.length := by
  induction bs generalizing e with
  | nil => simp
  | cons b bs ih => obtain ⟨h1, h2, h3⟩ := ih (engAbsorb a e b); simp [h1, h2, h3]; omega

/-- Absorbing bytes within the limit keeps the shape of the instance. -/
theorem absorbBytes_wf (a : Alg) (bs : List Byte) (e : Engine) (h : EngineWf a e)
    (hl : e.bitlen + 8 * bs.length < 2 ^ a.LW) : EngineWf a (absorbBytes a e bs) := by
  induction bs generalizing e with
  | nil => exact h
  | cons b bs ih =>
    simp only [List.length_cons] at hl
    refine ih _ (engAbsorb_wf a e b h ?_) ?_
    · simp only [lenOk, decide_eq_true_eq]; omega
    · rw [engAbsorb_bitlen]; omega

/-! ### eng_finalize (41_padding_and_digest.md rule R150) -/

@[simp] theorem compressTail_buf (a : Alg) (e : Engine) : (compressTail a e).buf = e.buf := by simp [compressTail]
@[simp] theorem compressTail_bitlen (a : Alg) (e : Engine) : (compressTail a e).bitlen = e.bitlen := by
  simp [compressTail]

theorem compressTail_sized (a : Alg) (e : Engine) (h : RegsSized a e) : RegsSized a (compressTail a e) :=
  compressChecksum_sized a _ (compressBlocks_sized a e _ h)

/-- `extract` gives DL bytes (40_engine_commands.md rule R134). -/
theorem extract_length (a : Alg) (e : Engine) (h : RegsSized a e) : (extract a e).length = a.DL := by
  obtain ⟨h1, h2, h3, h4⟩ := h
  cases a <;>
    simp [extract, serialise, flatMap_length_of_const _ 4 toLe32_length, flatMap_length_of_const _ 4 toBe32_length,
      flatMap_length_of_const _ 8 toBe64_length, h1, h2, h3, numH32, numH64, numX, Alg.DL, Alg.WW, Alg.NS, Alg.params]

@[simp] theorem engFinalize_phase (a : Alg) (e : Engine) : (engFinalize a e).phase = .final := rfl
@[simp] theorem engFinalize_buflen (a : Alg) (e : Engine) : (engFinalize a e).buflen = 0 := rfl
@[simp] theorem engFinalize_buf (a : Alg) (e : Engine) : (engFinalize a e).buf = e.buf := compressTail_buf a e
@[simp] theorem engFinalize_bitlen (a : Alg) (e : Engine) : (engFinalize a e).bitlen = e.bitlen :=
  compressTail_bitlen a e
theorem engFinalize_digest (a : Alg) (e : Engine) : (engFinalize a e).digest = extract a (compressTail a e) := rfl

theorem engFinalize_wf (a : Alg) (e : Engine) (h : EngineWf a e) : EngineWf a (engFinalize a e) := by
  have hs := compressTail_sized a e h.sized
  exact ⟨hs.h32_length, hs.h64_length, hs.x_length, hs.c_length, by simpa using h.buf_length, extract_length a _ hs,
    B_pos a, by simpa using h.bitlen_lt, by simpa using h.bitlen_bytes, fun hp => by simp at hp⟩

/-- The instances of a CORE right after reset have their shape (70_reset_and_hazards.md rule R300). -/
theorem engineAtReset_wf (a : Alg) : EngineWf a (engineAtReset a) := by
  have hB := B_pos a
  exact ⟨by simp [engineAtReset], by simp [engineAtReset], by simp [engineAtReset], by simp [engineAtReset],
    by simp [engineAtReset], by simp [engineAtReset], hB, by simp [engineAtReset], by simp [engineAtReset],
    fun hp => by simp [engineAtReset] at hp⟩

end Sys2Proof.Machine
end

