-- ==== Sys2Proof/Laws/Blocks.lean ====
section
/-! SUPPORT. Cutting byte sequences into blocks, what a compression depends on, the length of the padding, and the bytes of
a number. -/

namespace Sys2Proof.Machine

/-! ### blocksOf (41_padding_and_digest.md rule R150) -/

theorem rep_append (v : Byte) (n k : Nat) : rep v n ++ rep v k = rep v (n + k) := by simp [rep]

theorem slice_append_left (s t : List Byte) (i n : Nat) (h : i + n ≤ s.length) : slice (s ++ t) i n = slice s i n := by
  simp only [slice]
  rw [List.drop_append_of_le_length (by omega), List.take_append_of_le_length (by simp; omega)]

theorem slice_append_right (s t : List Byte) (i n : Nat) : slice (s ++ t) (s.length + i) n = slice t i n := by
  simp only [slice]
  rw [List.drop_append, List.drop_of_length_le (by omega)]; simp

/-- A sequence of whole blocks followed by more bytes is cut into its blocks and theirs. -/
theorem blocksOf_append (B q : Nat) (hB : 0 < B) (s t : List Byte) (h : s.length = q * B) :
    blocksOf B (s ++ t) = blocksOf B s ++ blocksOf B t := by
  have h1 : (s ++ t).length / B = q + t.length / B := by
    rw [List.length_append, h, Nat.add_comm, Nat.add_mul_div_right _ _ hB, Nat.add_comm]
  have h2 : s.length / B = q := by rw [h, Nat.mul_div_cancel _ hB]
  simp only [blocksOf, h1, h2, List.range_add, List.map_append, List.map_map]
  congr 1
  · apply List.map_congr_left
    intro k hk
    apply slice_append_left
    have := Nat.mul_le_mul_right B (Nat.succ_le_of_lt (List.mem_range.mp hk))
    rw [Nat.succ_mul] at this
    rw [h]; exact this
  · apply List.map_congr_left
    intro k _
    simp only [Function.comp]
    rw [Nat.add_mul, ← h, slice_append_right]

theorem blocksOf_one (B : Nat) (hB : 0 < B) (t : List Byte) (h : t.length = B) : blocksOf B t = [t] := by
  subst h; simp [blocksOf, Nat.div_self hB, slice]

theorem blocksOf_short (B : Nat) (t : List Byte) (h : t.length < B) : blocksOf B t = [] := by
  simp [blocksOf, Nat.div_eq_of_lt h]

/-! ### What a compression depends on -/

/-- The working registers of two instances agree. -/
structure RegsAgree (e f : Engine) : Prop where
  h32_eq : e.h32 = f.h32
  h64_eq : e.h64 = f.h64
  x_eq : e.x = f.x
  c_eq : e.c = f.c

theorem AbsorbsAlike.regs {e f : Engine} (h : AbsorbsAlike e f) : RegsAgree e f := ⟨h.h32_eq, h.h64_eq, h.x_eq, h.c_eq⟩

/-- A compression reads the working registers and the block only. -/
theorem compress_agree (a : Alg) (e f : Engine) (blk : List Byte) (h : RegsAgree e f) :
    RegsAgree (compress a e blk) (compress a f blk) := by
  obtain ⟨h1, h2, h3, h4⟩ := h
  cases a <;> constructor <;> simp only [compress, h1, h2, h3, h4]

theorem compressMany_agree (a : Alg) (blks : List (List Byte)) (e f : Engine) (h : RegsAgree e f) :
    RegsAgree (blks.foldl (compress a) e) (blks.foldl (compress a) f) := by
  induction blks generalizing e f with
  | nil => exact h
  | cons b blks ih => exact ih _ _ (compress_agree a e f b h)

/-- `extract` reads the working registers only. -/
theorem extract_agree (a : Alg) (e f : Engine) (h : RegsAgree e f) : extract a e = extract a f := by
  obtain ⟨h1, h2, h3, h4⟩ := h
  cases a <;> simp only [extract, serialise, h1, h2, h3]

/-! ### The padding -/

@[simp] theorem lengthField_length (a : Alg) (l : Nat) : (lengthField a l).length = a.LF := by
  cases a <;> simp [lengthField, Alg.BO, Alg.LF, Alg.params]

/-- The padded tail has one block or two (41_padding_and_digest.md rules R151, R155). -/
theorem padTail_length (a : Alg) (m : List Byte) (l : Nat) (hm : m.length < a.B) :
    (padTail a m l).length = if a = .md2 ∨ m.length ≤ a.B - a.LF - 1 then a.B else 2 * a.B := by
  cases a
  case md2 => simp [padTail, padTailMd2, Alg.B, Alg.params] at *; omega
  all_goals
    simp [padTail, padTailMd, padTailSha32, padTailSha64, markTail, Alg.B, Alg.LF, Alg.params] at *
    split <;> omega

/-! ### The bytes of a number (00_scope.md rule R10) -/

theorem leNat_cons (b : Byte) (s : List Byte) : leNat (b :: s) = b.toNat + 256 * leNat s := by simp [leNat]

theorem beNat_reverse (s : List Byte) : beNat s.reverse = leNat s := by
  simp [beNat, leNat, List.foldl_reverse, Nat.add_comm]

theorem leNat_leBytes (n v : Nat) : leNat (leBytes n v) = v % 256 ^ n := by
  induction n generalizing v with
  | zero => simp [leBytes, leNat, Nat.mod_one]
  | succ n ih =>
    rw [leBytes, leNat_cons, ih, Nat.pow_succ, Nat.mul_comm (256 ^ n), Nat.mod_mul]
    simp

theorem leBytes_leNat (s : List Byte) : leBytes s.length (leNat s) = s := by
  induction s with
  | nil => rfl
  | cons b s ih =>
    have hb := b.isLt
    simp only [List.length_cons, leBytes, leNat_cons]
    congr 1
    · apply BitVec.eq_of_toNat_eq; simp; omega
    · rw [show (b.toNat + 256 * leNat s) / 256 = leNat s by omega, ih]

end Sys2Proof.Machine
end

