-- ==== Sys2Proof/Laws/Encoding.lean ====
section
/-! SUPPORT. The two fields of a command word (30_encoding.md rule R90) and the opcode map (rule R95), operation code by
operation code. -/

namespace Sys2Proof

/-- Bits [15:8] of a command word built from its fields. -/
@[simp] theorem opField_commandWord (op arg : Byte) : opField (commandWord op arg) = op := by
  apply BitVec.eq_of_getLsbD_eq
  intro i hi
  have h : (commandWord op arg).getLsbD (8 + i) = _ := BitVec.getLsbD_append (x := op) (y := arg) (i := 8 + i)
  simp [opField, h, hi]

/-- Bits [7:0] of a command word built from its fields. -/
@[simp] theorem argField_commandWord (op arg : Byte) : argField (commandWord op arg) = arg := by
  apply BitVec.eq_of_getLsbD_eq
  intro i hi
  have h : (commandWord op arg).getLsbD i = _ := BitVec.getLsbD_append (x := op) (y := arg) (i := i)
  simp [argField, h, hi]

/-- A command word is its two fields. -/
theorem commandWord_fields (w : Word) : commandWord (opField w) (argField w) = w := by
  apply BitVec.eq_of_getLsbD_eq
  intro i hi
  have h : (commandWord (opField w) (argField w)).getLsbD i = _ :=
    BitVec.getLsbD_append (x := opField w) (y := argField w) (i := i)
  rw [h]
  by_cases hi8 : i < 8
  · simp [argField, hi8]
  · simp [opField, hi8, show i - 8 < 8 by omega, show 8 + (i - 8) = i by omega]

/-- The value of a command word in terms of its fields. -/
theorem commandWord_toNat (op arg : Byte) : (commandWord op arg).toNat = 256 * op.toNat + arg.toNat := by
  have h : (commandWord op arg).toNat = op.toNat <<< 8 ||| arg.toNat := BitVec.toNat_append op arg
  rw [h, ← Nat.shiftLeft_add_eq_or_of_lt arg.isLt, Nat.shiftLeft_eq]; omega

theorem decode_commandWord (op arg : Byte) : decode (commandWord op arg) = decodeFields op arg := by
  simp [decode]

/-- The opcodes of format A: every operand byte is legal. -/
theorem legalWord_formatA (op arg : Byte) (h : op.toNat ∈ [0x02, 0x04, 0x05, 0x12, 0x22, 0x24]) :
    legalWord (commandWord op arg) = true := by
  have key : ∀ op : Byte, op.toNat ∈ [0x02, 0x04, 0x05, 0x12, 0x22, 0x24] → ∀ arg : Byte,
      legalWord (commandWord op arg) = true := by decide +kernel
  exact key op h arg

/-- The opcodes of format N: only a zero operand byte is legal. -/
theorem legalWord_formatN (op arg : Byte) (h : op.toNat ∈ [0x01, 0x03, 0x11, 0x13, 0x21, 0x23]) :
    legalWord (commandWord op arg) = decide (arg = 0) := by
  have key : ∀ op : Byte, op.toNat ∈ [0x01, 0x03, 0x11, 0x13, 0x21, 0x23] → ∀ arg : Byte,
      legalWord (commandWord op arg) = decide (arg = 0) := by decide +kernel
  exact key op h arg

/-- A row of the opcode map that a word matches has the word's operation code in its match column. -/
theorem matchesWord_opField (r : OpcodeRow) (hr : r ∈ opcodeRows) (w : Word) (h : r.matchesWord w = true) :
    opField w = opField r.pattern := by
  have hm : w &&& r.mask = r.pattern := by simpa [OpcodeRow.matchesWord] using h
  have hk : ∀ r ∈ opcodeRows, opField r.mask = 0xff := by decide
  rw [← hm]
  apply BitVec.eq_of_getLsbD_eq
  intro i hi
  have h1 : (opField r.mask).getLsbD i = true := by rw [hk r hr]; interval_cases i <;> rfl
  simp only [opField, BitVec.getLsbD_extractLsb', hi, decide_true, Bool.true_and] at h1
  simp [opField, hi, h1]

/-- Every other operation code is reserved (30_encoding.md rule R97). -/
theorem legalWord_otherOp (op arg : Byte)
    (h : op.toNat ∉ [0x01, 0x02, 0x03, 0x04, 0x05, 0x11, 0x12, 0x13, 0x21, 0x22, 0x23, 0x24]) :
    legalWord (commandWord op arg) = false := by
  rw [legalWord, List.any_eq_false]
  intro r hr hm
  have h1 := matchesWord_opField r hr _ hm
  rw [opField_commandWord] at h1
  apply h
  rw [h1]
  clear h h1 hm
  revert r
  decide

end Sys2Proof
end

