-- ==== Sys2Proof/Laws/State.lean ====
section
/-! SUPPORT. What each update of State leaves in each field. -/

namespace Sys2Proof.Machine

@[simp] theorem State.setEng_sel (s : State) (e : Engine) : (s.setEng e).sel = s.sel := rfl
@[simp] theorem State.setEng_rej (s : State) (e : Engine) : (s.setEng e).rej = s.rej := rfl
@[simp] theorem State.setEng_err (s : State) (e : Engine) : (s.setEng e).err = s.err := rfl
@[simp] theorem State.setEng_eng (s : State) (e : Engine) : (s.setEng e).eng = e := rfl
@[simp] theorem State.setEng_inner (s : State) (e : Engine) : (s.setEng e).inner = s.inner := rfl
@[simp] theorem State.setEng_outer (s : State) (e : Engine) : (s.setEng e).outer = s.outer := rfl
@[simp] theorem State.setEng_hphase (s : State) (e : Engine) : (s.setEng e).hphase = s.hphase := rfl
@[simp] theorem State.setEng_kbuf (s : State) (e : Engine) : (s.setEng e).kbuf = s.kbuf := rfl
@[simp] theorem State.setEng_klen (s : State) (e : Engine) : (s.setEng e).klen = s.klen := rfl
@[simp] theorem State.setEng_input (s : State) (e : Engine) : (s.setEng e).input = s.input := rfl
@[simp] theorem State.setEng_out (s : State) (e : Engine) : (s.setEng e).out = s.out := rfl

@[simp] theorem State.setInner_sel (s : State) (e : Engine) : (s.setInner e).sel = s.sel := rfl
@[simp] theorem State.setInner_rej (s : State) (e : Engine) : (s.setInner e).rej = s.rej := rfl
@[simp] theorem State.setInner_err (s : State) (e : Engine) : (s.setInner e).err = s.err := rfl
@[simp] theorem State.setInner_eng (s : State) (e : Engine) : (s.setInner e).eng = s.eng := rfl
@[simp] theorem State.setInner_inner (s : State) (e : Engine) : (s.setInner e).inner = e := rfl
@[simp] theorem State.setInner_outer (s : State) (e : Engine) : (s.setInner e).outer = s.outer := rfl
@[simp] theorem State.setInner_hphase (s : State) (e : Engine) : (s.setInner e).hphase = s.hphase := rfl
@[simp] theorem State.setInner_kbuf (s : State) (e : Engine) : (s.setInner e).kbuf = s.kbuf := rfl
@[simp] theorem State.setInner_klen (s : State) (e : Engine) : (s.setInner e).klen = s.klen := rfl
@[simp] theorem State.setInner_input (s : State) (e : Engine) : (s.setInner e).input = s.input := rfl
@[simp] theorem State.setInner_out (s : State) (e : Engine) : (s.setInner e).out = s.out := rfl

@[simp] theorem State.setOuter_sel (s : State) (e : Engine) : (s.setOuter e).sel = s.sel := rfl
@[simp] theorem State.setOuter_rej (s : State) (e : Engine) : (s.setOuter e).rej = s.rej := rfl
@[simp] theorem State.setOuter_err (s : State) (e : Engine) : (s.setOuter e).err = s.err := rfl
@[simp] theorem State.setOuter_eng (s : State) (e : Engine) : (s.setOuter e).eng = s.eng := rfl
@[simp] theorem State.setOuter_inner (s : State) (e : Engine) : (s.setOuter e).inner = s.inner := rfl
@[simp] theorem State.setOuter_outer (s : State) (e : Engine) : (s.setOuter e).outer = e := rfl
@[simp] theorem State.setOuter_hphase (s : State) (e : Engine) : (s.setOuter e).hphase = s.hphase := rfl
@[simp] theorem State.setOuter_kbuf (s : State) (e : Engine) : (s.setOuter e).kbuf = s.kbuf := rfl
@[simp] theorem State.setOuter_klen (s : State) (e : Engine) : (s.setOuter e).klen = s.klen := rfl
@[simp] theorem State.setOuter_input (s : State) (e : Engine) : (s.setOuter e).input = s.input := rfl
@[simp] theorem State.setOuter_out (s : State) (e : Engine) : (s.setOuter e).out = s.out := rfl

@[simp] theorem State.setHphase_sel (s : State) (p : HPhase) : (s.setHphase p).sel = s.sel := rfl
@[simp] theorem State.setHphase_rej (s : State) (p : HPhase) : (s.setHphase p).rej = s.rej := rfl
@[simp] theorem State.setHphase_err (s : State) (p : HPhase) : (s.setHphase p).err = s.err := rfl
@[simp] theorem State.setHphase_eng (s : State) (p : HPhase) : (s.setHphase p).eng = s.eng := rfl
@[simp] theorem State.setHphase_inner (s : State) (p : HPhase) : (s.setHphase p).inner = s.inner := rfl
@[simp] theorem State.setHphase_outer (s : State) (p : HPhase) : (s.setHphase p).outer = s.outer := rfl
@[simp] theorem State.setHphase_hphase (s : State) (p : HPhase) : (s.setHphase p).hphase = p := rfl
@[simp] theorem State.setHphase_kbuf (s : State) (p : HPhase) : (s.setHphase p).kbuf = s.kbuf := rfl
@[simp] theorem State.setHphase_klen (s : State) (p : HPhase) : (s.setHphase p).klen = s.klen := rfl
@[simp] theorem State.setHphase_input (s : State) (p : HPhase) : (s.setHphase p).input = s.input := rfl
@[simp] theorem State.setHphase_out (s : State) (p : HPhase) : (s.setHphase p).out = s.out := rfl

@[simp] theorem State.setKbuf_sel (s : State) (k : List Byte) : (s.setKbuf k).sel = s.sel := rfl
@[simp] theorem State.setKbuf_rej (s : State) (k : List Byte) : (s.setKbuf k).rej = s.rej := rfl
@[simp] theorem State.setKbuf_err (s : State) (k : List Byte) : (s.setKbuf k).err = s.err := rfl
@[simp] theorem State.setKbuf_eng (s : State) (k : List Byte) : (s.setKbuf k).eng = s.eng := rfl
@[simp] theorem State.setKbuf_inner (s : State) (k : List Byte) : (s.setKbuf k).inner = s.inner := rfl
@[simp] theorem State.setKbuf_outer (s : State) (k : List Byte) : (s.setKbuf k).outer = s.outer := rfl
@[simp] theorem State.setKbuf_hphase (s : State) (k : List Byte) : (s.setKbuf k).hphase = s.hphase := rfl
@[simp] theorem State.setKbuf_kbuf (s : State) (k : List Byte) : (s.setKbuf k).kbuf = k := rfl
@[simp] theorem State.setKbuf_klen (s : State) (k : List Byte) : (s.setKbuf k).klen = s.klen := rfl
@[simp] theorem State.setKbuf_input (s : State) (k : List Byte) : (s.setKbuf k).input = s.input := rfl
@[simp] theorem State.setKbuf_out (s : State) (k : List Byte) : (s.setKbuf k).out = s.out := rfl

@[simp] theorem State.setKlen_sel (s : State) (n : Nat) : (s.setKlen n).sel = s.sel := rfl
@[simp] theorem State.setKlen_rej (s : State) (n : Nat) : (s.setKlen n).rej = s.rej := rfl
@[simp] theorem State.setKlen_err (s : State) (n : Nat) : (s.setKlen n).err = s.err := rfl
@[simp] theorem State.setKlen_eng (s : State) (n : Nat) : (s.setKlen n).eng = s.eng := rfl
@[simp] theorem State.setKlen_inner (s : State) (n : Nat) : (s.setKlen n).inner = s.inner := rfl
@[simp] theorem State.setKlen_outer (s : State) (n : Nat) : (s.setKlen n).outer = s.outer := rfl
@[simp] theorem State.setKlen_hphase (s : State) (n : Nat) : (s.setKlen n).hphase = s.hphase := rfl
@[simp] theorem State.setKlen_kbuf (s : State) (n : Nat) : (s.setKlen n).kbuf = s.kbuf := rfl
@[simp] theorem State.setKlen_klen (s : State) (n : Nat) : (s.setKlen n).klen = n := rfl
@[simp] theorem State.setKlen_input (s : State) (n : Nat) : (s.setKlen n).input = s.input := rfl
@[simp] theorem State.setKlen_out (s : State) (n : Nat) : (s.setKlen n).out = s.out := rfl

@[simp] theorem State.setErr_sel (s : State) (e : BitVec 5) : (s.setErr e).sel = s.sel := rfl
@[simp] theorem State.setErr_rej (s : State) (e : BitVec 5) : (s.setErr e).rej = s.rej := rfl
@[simp] theorem State.setErr_err (s : State) (e : BitVec 5) : (s.setErr e).err = e := rfl
@[simp] theorem State.setErr_eng (s : State) (e : BitVec 5) : (s.setErr e).eng = s.eng := rfl
@[simp] theorem State.setErr_inner (s : State) (e : BitVec 5) : (s.setErr e).inner = s.inner := rfl
@[simp] theorem State.setErr_outer (s : State) (e : BitVec 5) : (s.setErr e).outer = s.outer := rfl
@[simp] theorem State.setErr_hphase (s : State) (e : BitVec 5) : (s.setErr e).hphase = s.hphase := rfl
@[simp] theorem State.setErr_kbuf (s : State) (e : BitVec 5) : (s.setErr e).kbuf = s.kbuf := rfl
@[simp] theorem State.setErr_klen (s : State) (e : BitVec 5) : (s.setErr e).klen = s.klen := rfl
@[simp] theorem State.setErr_input (s : State) (e : BitVec 5) : (s.setErr e).input = s.input := rfl
@[simp] theorem State.setErr_out (s : State) (e : BitVec 5) : (s.setErr e).out = s.out := rfl

@[simp] theorem State.setInput_sel (s : State) (i : List HostEvent) : (s.setInput i).sel = s.sel := rfl
@[simp] theorem State.setInput_rej (s : State) (i : List HostEvent) : (s.setInput i).rej = s.rej := rfl
@[simp] theorem State.setInput_err (s : State) (i : List HostEvent) : (s.setInput i).err = s.err := rfl
@[simp] theorem State.setInput_eng (s : State) (i : List HostEvent) : (s.setInput i).eng = s.eng := rfl
@[simp] theorem State.setInput_inner (s : State) (i : List HostEvent) : (s.setInput i).inner = s.inner := rfl
@[simp] theorem State.setInput_outer (s : State) (i : List HostEvent) : (s.setInput i).outer = s.outer := rfl
@[simp] theorem State.setInput_hphase (s : State) (i : List HostEvent) : (s.setInput i).hphase = s.hphase := rfl
@[simp] theorem State.setInput_kbuf (s : State) (i : List HostEvent) : (s.setInput i).kbuf = s.kbuf := rfl
@[simp] theorem State.setInput_klen (s : State) (i : List HostEvent) : (s.setInput i).klen = s.klen := rfl
@[simp] theorem State.setInput_input (s : State) (i : List HostEvent) : (s.setInput i).input = i := rfl
@[simp] theorem State.setInput_out (s : State) (i : List HostEvent) : (s.setInput i).out = s.out := rfl

@[simp] theorem State.deliver_sel (s : State) (w : Word) : (s.deliver w).sel = s.sel := rfl
@[simp] theorem State.deliver_rej (s : State) (w : Word) : (s.deliver w).rej = s.rej := rfl
@[simp] theorem State.deliver_err (s : State) (w : Word) : (s.deliver w).err = s.err := rfl
@[simp] theorem State.deliver_eng (s : State) (w : Word) : (s.deliver w).eng = s.eng := rfl
@[simp] theorem State.deliver_inner (s : State) (w : Word) : (s.deliver w).inner = s.inner := rfl
@[simp] theorem State.deliver_outer (s : State) (w : Word) : (s.deliver w).outer = s.outer := rfl
@[simp] theorem State.deliver_hphase (s : State) (w : Word) : (s.deliver w).hphase = s.hphase := rfl
@[simp] theorem State.deliver_kbuf (s : State) (w : Word) : (s.deliver w).kbuf = s.kbuf := rfl
@[simp] theorem State.deliver_klen (s : State) (w : Word) : (s.deliver w).klen = s.klen := rfl
@[simp] theorem State.deliver_input (s : State) (w : Word) : (s.deliver w).input = s.input := rfl
@[simp] theorem State.deliver_out (s : State) (w : Word) : (s.deliver w).out = s.out ++ [w] := rfl

end Sys2Proof.Machine
end

