-- ==== Sys2Proof/Laws/Exec.lean ====
section
/-! SUPPORT. Everything a command and a step can do, said once: a command is refused and only its ERR bit changes, or it has
the effect of its rule and answers OK. -/

namespace Sys2Proof.Machine

/-! ### The configured algorithm -/

theorem configuredAlg_some {s : State} {a : Alg} (hr : s.rej = false) (ha : Alg.ofCode s.sel = some a) :
    configuredAlg s = some a := by simp [configuredAlg, hr, ha]

theorem configuredAlg_rejected {s : State} (hr : s.rej = true) : configuredAlg s = none := by simp [configuredAlg, hr]

theorem configuredAlg_some_iff {s : State} {a : Alg} :
    configuredAlg s = some a ↔ s.rej = false ∧ Alg.ofCode s.sel = some a := by
  cases h : s.rej <;> simp [configuredAlg, h]

theorem configuredAlg_congr {s t : State} (h1 : s.sel = t.sel) (h2 : s.rej = t.rej) :
    configuredAlg s = configuredAlg t := by simp [configuredAlg, h1, h2]

/-- The strap names an algorithm exactly when its value is below 10 (00_scope.md rule R6, 30_encoding.md rule R96). -/
theorem ofCode_isSome_iff (sel : BitVec 4) : (Alg.ofCode sel).isSome = true ↔ sel.toNat < 10 := by
  revert sel; decide

/-! ### Responses -/

theorem okWord_eq (d : Byte) : okWord d = (0x00#8 ++ d : Word) := rfl

theorem okWord_setWidth (d : Byte) : okWord d = BitVec.ofNat 16 d.toNat := by
  revert d; decide +kernel

theorem refusedWord_eq (c : Cause) : refusedWord c = faultWord c := by cases c <;> rfl

theorem setErrBit_eq (e : BitVec 5) (c : Cause) : setErrBit e c = e ||| faultMask c := by cases c <;> rfl

/-- The state after a refused command is the one 60_exceptions.md rule R274 describes. -/
theorem refusedState_eq (c : Cause) (s : State) : refusedState c s = afterRefusal c s := by
  simp only [refusedState, afterRefusal, setErrBit_eq, refusedWord_eq, State.setErr, State.deliver]

@[simp] theorem refusedState_sel (c : Cause) (s : State) : (refusedState c s).sel = s.sel := rfl
@[simp] theorem refusedState_rej (c : Cause) (s : State) : (refusedState c s).rej = s.rej := rfl
@[simp] theorem refusedState_err (c : Cause) (s : State) : (refusedState c s).err = setErrBit s.err c := rfl
@[simp] theorem refusedState_eng (c : Cause) (s : State) : (refusedState c s).eng = s.eng := rfl
@[simp] theorem refusedState_inner (c : Cause) (s : State) : (refusedState c s).inner = s.inner := rfl
@[simp] theorem refusedState_outer (c : Cause) (s : State) : (refusedState c s).outer = s.outer := rfl
@[simp] theorem refusedState_hphase (c : Cause) (s : State) : (refusedState c s).hphase = s.hphase := rfl
@[simp] theorem refusedState_kbuf (c : Cause) (s : State) : (refusedState c s).kbuf = s.kbuf := rfl
@[simp] theorem refusedState_klen (c : Cause) (s : State) : (refusedState c s).klen = s.klen := rfl
@[simp] theorem refusedState_input (c : Cause) (s : State) : (refusedState c s).input = s.input := rfl
@[simp] theorem refusedState_out (c : Cause) (s : State) : (refusedState c s).out = s.out ++ [refusedWord c] := rfl

/-! ### Everything a command can do -/

/-- `Effect i s t d`: the command `i` is not refused in `s`, `t` is `s` with its effect, and `d` is the data byte of its
response; the guards stand as premises. -/
inductive Effect : Instr → State → State → Byte → Prop
  | init {s : State} {a : Alg} (ha : configuredAlg s = some a) : Effect .init s (s.setEng (engInit a s.eng)) 0
  | upd {s : State} {a : Alg} (b : Byte) (ha : configuredAlg s = some a) (hp : s.eng.phase = .ready)
      (hl : lenOk a s.eng = true) : Effect (.upd b) s (s.setEng (engAbsorb a s.eng b)) 0
  | fin {s : State} {a : Alg} (ha : configuredAlg s = some a) (hp : s.eng.phase = .ready) :
      Effect .fin s (s.setEng (engFinalize a s.eng)) 0
  | rdd {s : State} {a : Alg} {d : Byte} (k : Byte) (ha : configuredAlg s = some a) (hp : s.eng.phase = .final)
      (hd : digestByte a s.eng k = some d) : Effect (.rdd k) s s d
  | rds {s : State} {d : Byte} (n : Byte) (hd : statusRegister s n = some d) : Effect (.rds n) s s d
  | hkinit {s : State} {a : Alg} (ha : configuredAlg s = some a) :
      Effect .hkinit s ((((s.setInner (engInit a s.inner)).setKbuf (rep 0x00 a.B)).setKlen 0).setHphase .keying) 0
  | hkupd {s : State} {a : Alg} (b : Byte) (ha : configuredAlg s = some a) (hp : s.hphase = .keying)
      (hl : lenOk a s.inner = true) :
      Effect (.hkupd b) s (((s.setInner (engAbsorb a s.inner b)).setKbuf (storeKeyByte a s.kbuf s.klen b)).setKlen
        (countKeyByte a s.klen)) 0
  | hkfinShort {s : State} {a : Alg} (ha : configuredAlg s = some a) (hp : s.hphase = .keying) (hk : s.klen ≤ a.B) :
      Effect .hkfin s (s.setHphase .keyed) 0
  | hkfinLong {s : State} {a : Alg} (ha : configuredAlg s = some a) (hp : s.hphase = .keying) (hk : a.B < s.klen) :
      Effect .hkfin s (((s.setInner (engFinalize a s.inner)).setKbuf (digestKey a (engFinalize a s.inner))).setHphase
        .keyed) 0
  | hminit {s : State} {a : Alg} (ha : configuredAlg s = some a) (hp : keyLoaded s.hphase = true) :
      Effect .hminit s ((s.setInner (absorbPad a s.inner s.kbuf ipad)).setHphase .msg) 0
  | hmupd {s : State} {a : Alg} (b : Byte) (ha : configuredAlg s = some a) (hp : s.hphase = .msg)
      (hl : lenOk a s.inner = true) : Effect (.hmupd b) s (s.setInner (engAbsorb a s.inner b)) 0
  | hmfin {s : State} {a : Alg} (ha : configuredAlg s = some a) (hp : s.hphase = .msg) :
      Effect .hmfin s (((s.setInner (engFinalize a s.inner)).setOuter
        (outerDigest a s.outer (engFinalize a s.inner) s.kbuf)).setHphase .done) 0
  | hrdm {s : State} {a : Alg} {d : Byte} (k : Byte) (ha : configuredAlg s = some a) (hp : s.hphase = .done)
      (hd : digestByte a s.outer k = some d) : Effect (.hrdm k) s s d

/-- A command is refused, or has its effect and answers OK with its data byte. -/
theorem exec_cases (i : Instr) (s : State) :
    (∃ c, exec i s = .next (refusedState c s)) ∨
    (∃ t d, Effect i s t d ∧ exec i s = .next (t.deliver (okWord d))) := by
  cases hc : configuredAlg s with
  | none =>
    cases i
    case rds n =>
      cases hd : statusRegister s n with
      | none => exact .inl ⟨.idx, by simp [exec, execRds, hd, raise]⟩
      | some d => exact .inr ⟨s, d, .rds n hd, by simp [exec, execRds, hd, respond]⟩
    all_goals exact .inl ⟨.alg, by simp [exec, execInit, execUpd, execFin, execRdd, execHkinit, execHkupd, execHkfin,
      execHminit, execHmupd, execHmfin, execHrdm, hc, raise]⟩
  | some a =>
    cases i with
    | init => exact .inr ⟨_, _, .init hc, by simp [exec, execInit, hc, respond]⟩
    | upd b =>
      by_cases hp : s.eng.phase = .ready
      · cases hl : lenOk a s.eng with
        | false => exact .inl ⟨.len, by simp [exec, execUpd, hc, hp, hl, raise]⟩
        | true => exact .inr ⟨_, _, .upd b hc hp hl, by simp [exec, execUpd, hc, hp, hl, respond]⟩
      · exact .inl ⟨.state, by simp [exec, execUpd, hc, hp, raise]⟩
    | fin =>
      by_cases hp : s.eng.phase = .ready
      · exact .inr ⟨_, _, .fin hc hp, by simp [exec, execFin, hc, hp, respond]⟩
      · exact .inl ⟨.state, by simp [exec, execFin, hc, hp, raise]⟩
    | rdd k =>
      by_cases hp : s.eng.phase = .final
      · cases hd : digestByte a s.eng k with
        | none => exact .inl ⟨.idx, by simp [exec, execRdd, hc, hp, hd, raise]⟩
        | some d => exact .inr ⟨s, d, .rdd k hc hp hd, by simp [exec, execRdd, hc, hp, hd, respond]⟩
      · exact .inl ⟨.state, by simp [exec, execRdd, hc, hp, raise]⟩
    | rds n =>
      cases hd : statusRegister s n with
      | none => exact .inl ⟨.idx, by simp [exec, execRds, hd, raise]⟩
      | some d => exact .inr ⟨s, d, .rds n hd, by simp [exec, execRds, hd, respond]⟩
    | hkinit => exact .inr ⟨_, _, .hkinit hc, by simp [exec, execHkinit, hc, respond]⟩
    | hkupd b =>
      by_cases hp : s.hphase = .keying
      · cases hl : lenOk a s.inner with
        | false => exact .inl ⟨.len, by simp [exec, execHkupd, hc, hp, hl, raise]⟩
        | true => exact .inr ⟨_, _, .hkupd b hc hp hl, by simp [exec, execHkupd, hc, hp, hl, respond]⟩
      · exact .inl ⟨.state, by simp [exec, execHkupd, hc, hp, raise]⟩
    | hkfin =>
      by_cases hp : s.hphase = .keying
      · by_cases hk : a.B < s.klen
        · exact .inr ⟨_, _, .hkfinLong hc hp hk, by simp [exec, execHkfin, hc, hp, hk, respond]⟩
        · exact .inr ⟨_, _, .hkfinShort hc hp (Nat.le_of_not_lt hk), by simp [exec, execHkfin, hc, hp, hk, respond]⟩
      · exact .inl ⟨.state, by simp [exec, execHkfin, hc, hp, raise]⟩
    | hminit =>
      cases hp : keyLoaded s.hphase with
      | false => exact .inl ⟨.state, by simp [exec, execHminit, hc, hp, raise]⟩
      | true => exact .inr ⟨_, _, .hminit hc hp, by simp [exec, execHminit, hc, hp, respond]⟩
    | hmupd b =>
      by_cases hp : s.hphase = .msg
      · cases hl : lenOk a s.inner with
        | false => exact .inl ⟨.len, by simp [exec, execHmupd, hc, hp, hl, raise]⟩
        | true => exact .inr ⟨_, _, .hmupd b hc hp hl, by simp [exec, execHmupd, hc, hp, hl, respond]⟩
      · exact .inl ⟨.state, by simp [exec, execHmupd, hc, hp, raise]⟩
    | hmfin =>
      by_cases hp : s.hphase = .msg
      · exact .inr ⟨_, _, .hmfin hc hp, by simp [exec, execHmfin, hc, hp, respond]⟩
      · exact .inl ⟨.state, by simp [exec, execHmfin, hc, hp, raise]⟩
    | hrdm k =>
      by_cases hp : s.hphase = .done
      · cases hd : digestByte a s.outer k with
        | none => exact .inl ⟨.idx, by simp [exec, execHrdm, hc, hp, hd, raise]⟩
        | some d => exact .inr ⟨s, d, .hrdm k hc hp hd, by simp [exec, execHrdm, hc, hp, hd, respond]⟩
      · exact .inl ⟨.state, by simp [exec, execHrdm, hc, hp, raise]⟩

/-- A command whose guards hold is not refused: the converse of `exec_cases`. -/
theorem exec_of_effect {i : Instr} {s t : State} {d : Byte} (h : Effect i s t d) :
    exec i s = .next (t.deliver (okWord d)) := by
  cases h with
  | init ha => simp [exec, execInit, ha, respond]
  | upd b ha hp hl => simp [exec, execUpd, ha, hp, hl, respond]
  | fin ha hp => simp [exec, execFin, ha, hp, respond]
  | rdd k ha hp hd => simp [exec, execRdd, ha, hp, hd, respond]
  | rds n hd => simp [exec, execRds, hd, respond]
  | hkinit ha => simp [exec, execHkinit, ha, respond]
  | hkupd b ha hp hl => simp [exec, execHkupd, ha, hp, hl, respond]
  | hkfinShort ha hp hk => simp [exec, execHkfin, ha, hp, Nat.not_lt.mpr hk, respond]
  | hkfinLong ha hp hk => simp [exec, execHkfin, ha, hp, hk, respond]
  | hminit ha hp => simp [exec, execHminit, ha, hp, respond]
  | hmupd b ha hp hl => simp [exec, execHmupd, ha, hp, hl, respond]
  | hmfin ha hp => simp [exec, execHmfin, ha, hp, respond]
  | hrdm k ha hp hd => simp [exec, execHrdm, ha, hp, hd, respond]

/-- No effect writes ALGR, ERR, or the HOST's side. -/
theorem Effect.keeps {i : Instr} {s t : State} {d : Byte} (h : Effect i s t d) :
    t.sel = s.sel ∧ t.rej = s.rej ∧ t.err = s.err ∧ t.input = s.input ∧ t.out = s.out := by
  cases h <;> simp

/-- No command looks at the HOST's coming events. -/
theorem Effect.setInput {i : Instr} {s t : State} {d : Byte} (x : List HostEvent) (h : Effect i s t d) :
    Effect i (s.setInput x) (t.setInput x) d := by
  cases h with
  | init ha => exact .init ha
  | upd b ha hp hl => exact .upd b ha hp hl
  | fin ha hp => exact .fin ha hp
  | rdd k ha hp hd => exact .rdd k ha hp hd
  | rds n hd => exact .rds n hd
  | hkinit ha => exact .hkinit ha
  | hkupd b ha hp hl => exact .hkupd b ha hp hl
  | hkfinShort ha hp hk => exact .hkfinShort ha hp hk
  | hkfinLong ha hp hk => exact .hkfinLong ha hp hk
  | hminit ha hp => exact .hminit ha hp
  | hmupd b ha hp hl => exact .hmupd b ha hp hl
  | hmfin ha hp => exact .hmfin ha hp
  | hrdm k ha hp hd => exact .hrdm k ha hp hd

/-! ### Everything a step can do -/

theorem fetch_nil {s : State} (h : s.input = []) : fetch s = none := by simp [fetch, h]

theorem fetch_cons {s : State} {ev : HostEvent} {rest : List HostEvent} (h : s.input = ev :: rest) :
    fetch s = some (ev, s.setInput rest) := by simp [fetch, h]


/-- The three ways a step goes: waiting, a command refused or run, a reset. -/
theorem step_cases (s : State) :
    (s.input = [] ∧ step s = .next s) ∨
    (∃ w rest, s.input = .command w :: rest ∧
      ((∃ c, step s = .next (refusedState c (s.setInput rest))) ∨
        ∃ i t d, decode w = .ok i ∧ Effect i (s.setInput rest) t d ∧ step s = .next (t.deliver (okWord d)))) ∨
    (∃ n rest, s.input = .reset n :: rest ∧ step s = .next (resetEvent n (s.setInput rest))) ∨
    (∃ w n rest, s.input = .aborted w n :: rest ∧ step s = .next (resetEvent n (s.setInput rest))) := by
  cases h : s.input with
  | nil => exact .inl ⟨rfl, by simp [step, fetch, h, wait]⟩
  | cons ev rest =>
    cases ev with
    | command w =>
      refine .inr (.inl ⟨w, rest, rfl, ?_⟩)
      have hs : step s = runWord w (s.setInput rest) := by simp [step, fetch, h, runEvent]
      cases hd : decode w with
      | error r => exact .inl ⟨.cmd, by simp [hs, runWord, hd, raise]⟩
      | ok i =>
        have hs' : step s = exec i (s.setInput rest) := by simp [hs, runWord, hd]
        rcases exec_cases i (s.setInput rest) with ⟨c, hc⟩ | ⟨t, d, he, ht⟩
        · exact .inl ⟨c, hs'.trans hc⟩
        · exact .inr ⟨i, t, d, rfl, he, hs'.trans ht⟩
    | reset n => exact .inr (.inr (.inl ⟨n, rest, rfl, by simp [step, fetch, h, runEvent]⟩))
    | aborted w n =>
      exact .inr (.inr (.inr ⟨w, n, rest, rfl, by simp [step, fetch, h, runEvent, abortEvent]⟩))

@[simp] theorem resetEvent_input (n : BitVec 4) (s : State) : (resetEvent n s).input = s.input := rfl
@[simp] theorem resetEvent_out (n : BitVec 4) (s : State) : (resetEvent n s).out = s.out := rfl

end Sys2Proof.Machine
end

