-- ==== Sys2Proof/Laws/PerInstr.lean ====
section
/-! SUPPORT. The family `EncodedLegal`: the encoding of an instruction is no reserved word (30_encoding.md rules R95, R97),
one lemma per constructor of Instr. -/

namespace Sys2Proof.Laws.EncodedLegal

/-- The word of an instruction matches a row of the opcode map. -/
def Statement (i : Instr) : Prop := legalWord (encode i) = true

theorem init : Statement .init := legalWord_formatN 0x01 0 (by decide)

theorem upd (b : Byte) : Statement (.upd b) := legalWord_formatA 0x02 b (by decide)

theorem fin : Statement .fin := legalWord_formatN 0x03 0 (by decide)

theorem rdd (i : Byte) : Statement (.rdd i) := legalWord_formatA 0x04 i (by decide)

theorem rds (n : Byte) : Statement (.rds n) := legalWord_formatA 0x05 n (by decide)

theorem hkinit : Statement .hkinit := legalWord_formatN 0x11 0 (by decide)

theorem hkupd (b : Byte) : Statement (.hkupd b) := legalWord_formatA 0x12 b (by decide)

theorem hkfin : Statement .hkfin := legalWord_formatN 0x13 0 (by decide)

theorem hminit : Statement .hminit := legalWord_formatN 0x21 0 (by decide)

theorem hmupd (b : Byte) : Statement (.hmupd b) := legalWord_formatA 0x22 b (by decide)

theorem hmfin : Statement .hmfin := legalWord_formatN 0x23 0 (by decide)

theorem hrdm (i : Byte) : Statement (.hrdm i) := legalWord_formatA 0x24 i (by decide)

end Sys2Proof.Laws.EncodedLegal
end

