-- ==== Sys2Proof/Laws/Wrapper.lean ====
section
/-! SUPPORT. The operations of the HMAC wrapper and the reads of a digest byte: sizes, bounds, and that the pads keep an
instance in its shape. -/

namespace Sys2Proof.Machine

@[simp] theorem storeKeyByte_length (a : Alg) (kbuf : List Byte) (klen : Nat) (b : Byte) :
    (storeKeyByte a kbuf klen b).length = kbuf.length := by
  unfold storeKeyByte; split <;> simp

/-- KLEN counts up to B + 1 and stays there (46_hmac.md rule R242). -/
theorem countKeyByte_eq (a : Alg) (klen : Nat) (h : klen ≤ a.B + 1) : countKeyByte a klen = min (klen + 1) (a.B + 1) := by
  unfold countKeyByte; split <;> omega

theorem digestKey_length (a : Alg) (e : Engine) (h : e.digest.length = a.DL) : (digestKey a e).length = a.B := by
  have := DL_le_B a
  simp [digestKey, h]; omega

/-- An index below DL reads that byte of DIGEST, any other reads nothing (40_engine_commands.md rule R131). -/
theorem digestByte_some (a : Alg) (e : Engine) (i d : Byte) :
    digestByte a e i = some d ↔ i.toNat < a.DL ∧ e.digest.getD i.toNat 0 = d := by
  unfold digestByte; split <;> simp_all

theorem digestByte_none (a : Alg) (e : Engine) (i : Byte) : digestByte a e i = none ↔ a.DL ≤ i.toNat := by
  unfold digestByte; split <;> simp <;> omega

theorem keyLoaded_iff (h : HPhase) : keyLoaded h = true ↔ h = .keyed ∨ h = .msg ∨ h = .done := by
  cases h <;> simp [keyLoaded]

/-- An instance given a pad block keeps its shape. -/
theorem absorbPad_wf (a : Alg) (e : Engine) (kbuf : List Byte) (pad : Byte) (h : EngineWf a e) :
    EngineWf a (absorbPad a e kbuf pad) := by
  have hl := blockBits_lt_limit a
  refine absorbBytes_wf a _ _ (engInit_wf a e h) ?_
  simp; omega

theorem absorbPad_phase (a : Alg) (e : Engine) (kbuf : List Byte) (pad : Byte) : (absorbPad a e kbuf pad).phase = .ready :=
  (absorbBytes_keeps a _ _).1

/-- After a pad block of a key buffer of B bytes the instance has counted B bytes. -/
theorem absorbPad_bitlen (a : Alg) (e : Engine) (kbuf : List Byte) (pad : Byte) (h : kbuf.length = a.B) :
    (absorbPad a e kbuf pad).bitlen = 8 * a.B := by
  have := (absorbBytes_keeps a (xorb (kbuf.take a.B) pad) (engInit a e)).2.2
  simpa [absorbPad, h] using this

/-- The outer instance after HMFIN keeps its shape and is finalized. -/
theorem outerDigest_wf (a : Alg) (outer inner : Engine) (kbuf : List Byte) (h : EngineWf a outer)
    (hk : kbuf.length = a.B) : EngineWf a (outerDigest a outer inner kbuf) := by
  have hl := blockBits_lt_limit a
  refine engFinalize_wf a _ (absorbBytes_wf a _ _ (absorbPad_wf a outer kbuf opad h) ?_)
  rw [absorbPad_bitlen a outer kbuf opad hk]; simp; omega

@[simp] theorem outerDigest_phase (a : Alg) (outer inner : Engine) (kbuf : List Byte) :
    (outerDigest a outer inner kbuf).phase = .final := rfl

end Sys2Proof.Machine
end

