-- ==== Sys2Proof/Tests/Slice0.lean ====
section
/-! SUPPORT. Tests with expected values from spec/ (95_test_vectors.md section 2.3 where a row number stands), and for every
obligation with hypotheses a concrete state and operands that meet them together. -/

open Sys2Proof Sys2Proof.Machine

namespace Sys2Proof.Tests

/-! ### Ill-formed words: WellFormed (30_encoding.md rule R97)

An instruction of this hardware cannot be ill-formed (30_encoding.md rule R94: every 8-bit operand is allowed), so the
check is on the words; each of its two grounds refuses a word here. -/

theorem test_unknown_opcodes_are_refused :
    [0x0000, 0x0600, 0x1000, 0x1401, 0x2500, 0x8100, 0xffff].map legalWord =
      [false, false, false, false, false, false, false] := by decide

theorem test_formatN_words_with_an_operand_are_refused :
    [0x0101, 0x0301, 0x1101, 0x1380, 0x21ff, 0x2310].map legalWord = [false, false, false, false, false, false] := by
  decide

theorem test_decoder_names_an_unknown_opcode : decode 0x0600 = .error (.opcode 0x06) := by decide

theorem test_decoder_names_a_formatN_operand : decode 0x0301 = .error (.operandNotZero 0x03 0x01) := by decide

/-! ### Decoding, words written out bit by bit from 30_encoding.md rule R95 -/

theorem test_decode_init : decode 0b0000_0001_0000_0000 = .ok .init := by decide
theorem test_decode_upd : decode 0b0000_0010_1000_0001 = .ok (.upd 0x81) := by decide
theorem test_decode_fin : decode 0b0000_0011_0000_0000 = .ok .fin := by decide
theorem test_decode_rdd : decode 0b0000_0100_0100_0000 = .ok (.rdd 64) := by decide
theorem test_decode_rds : decode 0b0000_0101_0000_0101 = .ok (.rds 5) := by decide
theorem test_decode_hkinit : decode 0b0001_0001_0000_0000 = .ok .hkinit := by decide
theorem test_decode_hkupd : decode 0b0001_0010_1111_1110 = .ok (.hkupd 0xfe) := by decide
theorem test_decode_hkfin : decode 0b0001_0011_0000_0000 = .ok .hkfin := by decide
theorem test_decode_hminit : decode 0b0010_0001_0000_0000 = .ok .hminit := by decide
theorem test_decode_hmupd : decode 0b0010_0010_0000_1101 = .ok (.hmupd 13) := by decide
theorem test_decode_hmfin : decode 0b0010_0011_0000_0000 = .ok .hmfin := by decide
theorem test_decode_hrdm : decode 0b0010_0100_0011_1111 = .ok (.hrdm 63) := by decide
theorem test_decode_table_word : decodeTableWord 16 0x241f = some (.hrdm 31) := by decide

/-! ### Small states -/

/-- A CORE after reset with ENG brought to `e`. -/
def withEng (sel : BitVec 4) (e : Engine) : State := (State.resetWith sel).setEng e

/-- An instance right after eng_init. -/
def fresh (a : Alg) : Engine := engInit a (engineAtReset a)

/-- A finalized instance with the given digest. -/
def finalized (a : Alg) (d : List Byte) : Engine := { engineAtReset a with phase := .final, digest := d }

/-- The MD5 digest of the empty message, 95_test_vectors.md section 2.1. -/
def md5Empty : List Byte :=
  [0xd4, 0x1d, 0x8c, 0xd9, 0x8f, 0x00, 0xb2, 0x04, 0xe9, 0x80, 0x09, 0x98, 0xec, 0xf8, 0x42, 0x7e]

/-- SHA2_256 with a complete all-zero key: after HKINIT, HKFIN. -/
def keyedSha : State :=
  (((State.resetWith 5).setInner (fresh .sha2_256)).setKbuf (rep 0 64)).setHphase .keyed

/-- SHA2_256 while a key is received: after HKINIT. -/
def keyingSha : State := keyedSha.setHphase .keying

/-- SHA2_256 with INNER at the counter value `bits` while a message is received. -/
def msgSha (bits n : Nat) : State :=
  (keyedSha.setInner { fresh .sha2_256 with bitlen := bits, buflen := n }).setHphase .msg

/-- The state one step after the word is sent. -/
def sent (s : State) (w : Nat) : Option State :=
  match step (s.withFetchWord 16 w) with
  | .next t => some t
  | .fault _ => none
  | .refused _ => none

/-- What a test looks at: the responses and ERR. -/
def answer (o : Option State) : Option (List Word × BitVec 5) := o.map fun t => (t.out, t.err)

/-! ### One step of each command: at most two tests each -/

theorem test_init_row1 :
    (sent (State.resetWith 2) 0x0100).map (fun t => (t.out, t.eng.phase, t.eng.h32, t.eng.buflen, t.eng.bitlen)) =
      some ([0x0000], .ready, [0x67452301, 0xefcdab89, 0x98badcfe, 0x10325476], 0, 0) := by decide

theorem test_init_on_rejected_core_row71 : answer (sent (State.resetWith 12) 0x0100) = some ([0x0100], 0b00001) := by
  decide

theorem test_upd_row2 :
    (sent (withEng 2 (fresh .md5)) 0x0261).map (fun t => (t.out, t.eng.buf.take 2, t.eng.buflen, t.eng.bitlen)) =
      some ([0x0000], [0x61, 0x00], 1, 8) := by decide

theorem test_upd_at_the_limit_section_2_4 :
    answer (sent (withEng 5 { fresh .sha2_256 with bitlen := 0xfffffffffffffff8, buflen := 63 }) 0x0261) =
      some ([0x0400], 0b01000) := by decide

theorem test_fin_row5 :
    (sent (withEng 2 (fresh .md5)) 0x0300).map (fun t => (t.out, t.eng.phase, t.eng.digest, t.eng.buflen)) =
      some ([0x0000], .final, md5Empty, 0) := by decide +kernel

theorem test_fin_before_init_row11 : answer (sent (State.resetWith 2) 0x0300) = some ([0x0300], 0b00100) := by decide

theorem test_rdd_row7 : answer (sent (withEng 2 (finalized .md5 md5Empty)) 0x040f) = some ([0x007e], 0) := by decide

theorem test_rdd_row8 : answer (sent (withEng 2 (finalized .md5 md5Empty)) 0x0410) = some ([0x0500], 0b10000) := by
  decide

theorem test_rds_row68 : answer (sent (State.resetWith 12) 0x0500) = some ([0x008c], 0b00001) := by decide

theorem test_rds_row29 : answer (sent (State.resetWith 5) 0x0506) = some ([0x0500], 0b10000) := by decide

theorem test_hkinit_row47 :
    (sent (State.resetWith 5) 0x1100).map (fun t => (t.out, t.hphase, t.klen, t.kbuf, t.inner.phase)) =
      some ([0x0000], .keying, 0, rep 0 64, .ready) := by decide

theorem test_hkupd_row48 :
    (sent keyingSha 0x1273).map (fun t => (t.out, t.kbuf.take 2, t.klen, t.inner.buf.take 2, t.inner.bitlen)) =
      some ([0x0000], [0x73, 0x00], 1, [0x73, 0x00], 8) := by decide

theorem test_hkupd_row50 : answer (sent (State.resetWith 5) 0x1201) = some ([0x0300], 0b00100) := by decide

theorem test_hkfin_row49 :
    (sent keyingSha 0x1300).map (fun t => (t.out, t.hphase, t.kbuf)) = some ([0x0000], .keyed, rep 0 64) := by decide

theorem test_hkfin_row51 : answer (sent (State.resetWith 5) 0x1300) = some ([0x0300], 0b00100) := by decide

theorem test_hminit_row54 :
    (sent keyedSha 0x2100).map (fun t => (t.out, t.hphase, t.inner.buf, t.inner.bitlen, t.inner.buflen)) =
      some ([0x0000], .msg, rep 0x36 64, 512, 0) := by decide +kernel

theorem test_hminit_row53 : answer (sent keyingSha 0x2100) = some ([0x0300], 0b00100) := by decide

theorem test_hmupd_row57 :
    (sent (msgSha 512 0) 0x2201).map (fun t => (t.out, t.inner.buf.take 1, t.inner.bitlen, t.inner.buflen)) =
      some ([0x0000], [0x01], 520, 1) := by decide

theorem test_hmupd_row55 : answer (sent keyedSha 0x2201) = some ([0x0300], 0b00100) := by decide

/-- Row 60: bytes 0 and 31 of HMAC-SHA2_256 of the empty message under the empty key; one HMFIN from the state HMINIT
leaves. -/
theorem test_hmfin_rows58_60_61 :
    (sent ((keyedSha.setInner (absorbPad .sha2_256 (fresh .sha2_256) (rep 0 64) 0x36)).setHphase .msg) 0x2300).map
      (fun t => (t.out, t.hphase, t.outer.digest.getD 0 0, t.outer.digest.getD 31 0, t.outer.bitlen)) =
      some ([0x0000], .done, 0xb6, 0xad, 768) := by decide +kernel

theorem test_hmfin_row56 : answer (sent keyedSha 0x2300) = some ([0x0300], 0b00100) := by decide

theorem test_hrdm_row62 : answer (sent (keyedSha.setHphase .done) 0x2420) = some ([0x0500], 0b10000) := by decide

theorem test_hrdm_row74 : answer (sent (State.resetWith 12) 0x2400) = some ([0x0100], 0b00001) := by decide

theorem test_reserved_word_before_alg_row75 : answer (sent (State.resetWith 12) 0x0101) = some ([0x0200], 0b00011) := by
  decide

theorem test_reset_event_reconfigures :
    (match step ((keyedSha.deliver 0x0000).setInput [.reset 7, .command 0x0504]) with
      | .next t => some (t.sel, t.hphase, t.kbuf.length, t.input, t.out)
      | .fault _ => none
      | .refused _ => none) = some (7, .noKey, 128, [.command 0x0504], [0x0000]) := by decide +kernel

/-- 46_hmac.md rule R257 and 95_test_vectors.md V2: "abc" under MD5. -/
theorem test_md5_abc : digestOf .md5 [0x61, 0x62, 0x63] =
    [0x90, 0x01, 0x50, 0x98, 0x3c, 0xd2, 0x4f, 0xb0, 0xd6, 0x96, 0x3f, 0x7d, 0x28, 0xe1, 0x7f, 0x72] := by decide +kernel

/-- 95_test_vectors.md section 2.1, MD2 of "abc". -/
theorem test_md2_abc : digestOf .md2 [0x61, 0x62, 0x63] =
    [0xda, 0x85, 0x3b, 0x0d, 0x3f, 0x88, 0xd9, 0x9b, 0x30, 0x28, 0x3a, 0x69, 0xe6, 0xde, 0xd6, 0xbb] := by decide +kernel

theorem test_asm_text : asm (.upd 0x61) = "UPD 0x61" := by decide

/-! ### Facts about the small states -/

theorem fresh_wf (a : Alg) : EngineWf a (fresh a) := engInit_wf a _ (engineAtReset_wf a)

/-- A state of a CORE configured for SHA2_256 whose wrapper is at rest meets the invariant when its instances have their
shape and KBUF its length. -/
theorem inv_of_sha (s : State) (hs : s.sel = 5) (hr : s.rej = false) (he : EngineWf .sha2_256 s.eng)
    (hi : EngineWf .sha2_256 s.inner) (ho : EngineWf .sha2_256 s.outer) (hp : s.hphase = .noKey)
    (hk : s.kbuf.length = 64) (hl : s.klen = 0) : StateInv s := by
  have hc : configuredAlg s = some .sha2_256 := by simp [configuredAlg, hr, hs]; decide
  refine ⟨by rw [hs, hr]; decide, by simp [hr], by simp [hr], ?_, ?_, ?_, ?_⟩ <;> intro a ha <;> rw [hc] at ha <;>
    cases ha
  · exact he
  · exact hi
  · exact ho
  · constructor <;> simp [hp, hk, hl]; rfl

theorem reset_sha_inv (i : List HostEvent) : StateInv ((State.resetWith 5).setInput i) :=
  inv_of_sha _ rfl rfl (engineAtReset_wf _) (engineAtReset_wf _) (engineAtReset_wf _) rfl rfl rfl

/-- ENG ready with a message, other values in the registers a command cannot read. -/
def readyA : State := ((withEng 5 (engAbsorb .sha2_256 (fresh .sha2_256) 0x61)).setInput [.command 0x0300])

/-- As `readyA`, with other bytes in KBUF, in BUF above BUFLEN and in DIGEST. -/
def readyB : State :=
  (readyA.setKbuf (rep 0xff 64)).setEng
    { readyA.eng with buf := 0x61 :: rep 0xee 63, digest := rep 0xdd 32 }

theorem readyA_eng_wf : EngineWf .sha2_256 readyA.eng := engAbsorb_wf _ _ _ (fresh_wf _) (by decide)

theorem readyA_inv : StateInv readyA :=
  inv_of_sha _ rfl rfl readyA_eng_wf (engineAtReset_wf _) (engineAtReset_wf _) rfl rfl rfl

theorem readyB_inv : StateInv readyB := by
  obtain ⟨h1, h2, h3, h4, -, -, h7, h8, h9, h10⟩ := readyA_eng_wf
  exact inv_of_sha _ rfl rfl ⟨h1, h2, h3, h4, rfl, rfl, h7, h8, h9, h10⟩ (engineAtReset_wf _) (engineAtReset_wf _) rfl
    rfl rfl

theorem readyA_readyB_look_alike : LooksAlike readyA readyB := by
  refine ⟨rfl, rfl, rfl, rfl, rfl, rfl, rfl, fun _ => ⟨rfl, rfl, rfl, rfl, rfl, rfl, by decide⟩, fun h => ?_, fun h => ?_,
    fun h => ?_, fun h => ?_, fun h => ?_, fun h => ?_⟩
  · exact absurd h (by decide)
  · exact absurd h (by decide)
  · exact absurd h (by decide)
  · exact absurd h (by decide)
  · exact absurd h (by decide)
  · exact absurd h (by decide)

/-! ### Witnesses: the hypotheses of each obligation are met by a concrete state and operands -/

theorem witness_DecodeEncodeRoundTrip : (Instr.upd 0xff).wellFormed = true ∧ Instr.hmfin.wellFormed = true := by decide

theorem witness_EncodeDecodeRoundTrip : decode 0x02ff = .ok (.upd 0xff) ∧ decode 0x2300 = .ok .hmfin := by decide

theorem witness_ReservedWordsAreThoseOutsideTheMap :
    decode 0x0600 = .error (.opcode 0x06) ∧ legalWord 0x0600 = false ∧ legalWord 0x0100 = true ∧
    legalWord 0x01ff = false ∧ legalWord 0x24ff = true := by decide

theorem witness_StepRunsTheDecodedCommand :
    ((State.resetWith 5).setInput [.command 0x0261, .reset 3]).input = .command 0x0261 :: [.reset 3] ∧
    decode 0x0261 = .ok (.upd 0x61) ∧ (Instr.upd 0x61).wellFormed = true ∧ 0x24ff < 2 ^ 16 ∧
    decode (BitVec.ofNat 16 0x24ff) = .ok (.hrdm 0xff) := by decide

theorem witness_ReservedWordIsRefusedBeforeAnythingElse :
    ((State.resetWith 12).setInput [.command 0x0101]).input = .command 0x0101 :: [] ∧ legalWord 0x0101 = false := by
  decide

theorem witness_NothingRunsWithoutTheHost : (State.resetWith 5).input = [] := by decide

theorem witness_ResetLoadsTheDefinedRegisters :
    (keyedSha.setInput [.reset 10]).input = .reset 10 :: [] ∧ (keyedSha.setInput [.reset 9]).input = .reset 9 :: [] ∧
    exec (.rds 0) keyedSha = .next (keyedSha.deliver 0x0005) := ⟨rfl, rfl, rfl⟩

theorem witness_ResetDuringACommandLeavesOnlyTheReset :
    ((withEng 5 (fresh .sha2_256)).setInput [.aborted 0x0300 7]).input = .aborted 0x0300 7 :: [] ∧
    (keyedSha.setInput [.reset 7]).input = .reset 7 :: [] ∧
    (keyedSha.setInput [.reset 7]).out = ((withEng 5 (fresh .sha2_256)).setInput [.aborted 0x0300 7]).out := by decide

theorem witness_RdsReadsTheSixStatusRegisters :
    (State.resetWith 15).rej = true ∧ (State.resetWith 9).rej = false ∧
    Alg.ofCode (State.resetWith 9).sel = some .sha2_512_256 ∧ 6 ≤ (6#8).toNat ∧ 6 ≤ (255#8).toNat := by decide

theorem witness_EngInitWritesIvZeroesBufferAndLength :
    Alg.md4 ≠ .md2 ∧ Alg.sha2_384.WW ≠ 32 ∧ Alg.sha1.WW ≠ 64 := by decide

theorem witness_EngAbsorbStoresAndCompressesTheFullBlock :
    (fresh .md2).buf.length = Alg.md2.B ∧ (fresh .md2).buflen + 1 ≠ Alg.md2.B ∧
    ({ fresh .md2 with buflen := 15 } : Engine).buf.length = Alg.md2.B ∧
    ({ fresh .md2 with buflen := 15 } : Engine).buflen + 1 = Alg.md2.B := by decide

/-- The boundary lengths of each clause: 55, 56 and 63 of 64; 111, 112 and 127 of 128; 15 of 16. -/
theorem witness_PadTailHasTheLayoutOfItsAlgorithm :
    [55, 56, 63].map (fun n => (padTail .md5 (rep 0x61 n) (8 * n)).length) = [64, 128, 128] ∧
    [55, 56, 63].map (fun n => (padTail .sha1 (rep 0x61 n) (8 * n)).length) = [64, 128, 128] ∧
    [111, 112, 127].map (fun n => (padTail .sha2_512 (rep 0x61 n) (8 * n)).length) = [128, 256, 256] ∧
    (rep 0x61 63).length < 64 ∧ (rep 0x61 127).length < 128 ∧ (rep 0x61 15).length < 16 := by decide +kernel

theorem witness_EngFinalizePadsCompressesAndExtracts :
    (∃ e1 e2 : Engine,
      e1 = ((List.range ((padTail .md2 ((fresh .md2).buf.take (fresh .md2).buflen) (fresh .md2).bitlen).length /
          Alg.md2.B)).map fun k =>
        ((padTail .md2 ((fresh .md2).buf.take (fresh .md2).buflen) (fresh .md2).bitlen).drop (k * Alg.md2.B)).take
          Alg.md2.B).foldl (compress .md2) (fresh .md2) ∧
      (Alg.md2 ≠ .md2 → e2 = e1) ∧ (Alg.md2 = .md2 → e2 = compress .md2 e1 (e1.c.take 16))) :=
  ⟨_, _, rfl, fun h => absurd rfl h, fun _ => rfl⟩

theorem witness_ExtractTakesTheFirstBytesInTheDeclaredOrder :
    (fresh .md5).h32 = [0x67452301, 0xefcdab89, 0x98badcfe, 0x10325476] ∧ (Alg.md5 = .md4 ∨ Alg.md5 = .md5) := by decide

theorem witness_TruncatedVariantsDifferOnlyInIvAndLength :
    Alg.sha2_512_224 = .sha2_512_224 ∧ Rom.iv512_224 = Rom.iv512_224 ∧ 28 = Alg.sha2_512_224.DL := by decide

/-- Both sides of the limit, and BITLEN at its largest. -/
theorem witness_LenOkIsTheBitlenLimit :
    (2 ^ 64 - 16) % 8 = 0 ∧ 2 ^ 64 - 16 < 2 ^ Alg.sha1.LW ∧
    lenOk .sha1 { fresh .sha1 with bitlen := 2 ^ 64 - 16 } = true ∧
    (2 ^ 64 - 8) % 8 = 0 ∧ 2 ^ 64 - 8 < 2 ^ Alg.sha1.LW ∧
    lenOk .sha1 { fresh .sha1 with bitlen := 2 ^ 64 - 8 } = false ∧
    lenOk .sha2_512 { fresh .sha2_512 with bitlen := 2 ^ 128 - 16 } = true ∧
    lenOk .sha2_512 { fresh .sha2_512 with bitlen := 2 ^ 128 - 8 } = false ∧
    (withEng 5 { fresh .sha2_256 with bitlen := 2 ^ 64 - 8, buflen := 63 }).rej = false ∧
    Alg.ofCode (withEng 5 { fresh .sha2_256 with bitlen := 2 ^ 64 - 8, buflen := 63 }).sel = some .sha2_256 ∧
    (withEng 5 { fresh .sha2_256 with bitlen := 2 ^ 64 - 8, buflen := 63 }).eng.phase = .ready ∧
    lenOk .sha2_256 (withEng 5 { fresh .sha2_256 with bitlen := 2 ^ 64 - 8, buflen := 63 }).eng = false := by decide

theorem witness_InitReinitialisesEng :
    (State.resetWith 10).rej = true ∧ (State.resetWith 0).rej = false ∧
    Alg.ofCode (State.resetWith 0).sel = some .md2 := by decide

theorem witness_UpdAbsorbsOneByteOrIsRefused :
    (State.resetWith 12).rej = true ∧ (State.resetWith 5).rej = false ∧
    Alg.ofCode (State.resetWith 5).sel = some .sha2_256 ∧ (State.resetWith 5).eng.phase ≠ .ready ∧
    (withEng 5 (fresh .sha2_256)).rej = false ∧ Alg.ofCode (withEng 5 (fresh .sha2_256)).sel = some .sha2_256 ∧
    (withEng 5 (fresh .sha2_256)).eng.phase = .ready ∧
    (withEng 5 (fresh .sha2_256)).eng.bitlen + 8 ≤ 2 ^ Alg.sha2_256.LW - 1 ∧
    (withEng 5 { fresh .sha2_256 with bitlen := 2 ^ 64 - 8, buflen := 63 }).eng.phase = .ready ∧
    ¬ (withEng 5 { fresh .sha2_256 with bitlen := 2 ^ 64 - 8, buflen := 63 }).eng.bitlen + 8 ≤
      2 ^ Alg.sha2_256.LW - 1 := by decide

theorem witness_FinProducesTheDigestOrIsRefused :
    (State.resetWith 12).rej = true ∧ (State.resetWith 5).eng.phase ≠ .ready ∧
    (withEng 5 (fresh .sha2_256)).rej = false ∧ Alg.ofCode (withEng 5 (fresh .sha2_256)).sel = some .sha2_256 ∧
    (withEng 5 (fresh .sha2_256)).eng.phase = .ready := by decide

/-- Index DL - 1 and index DL. -/
theorem witness_RddReadsADigestByteOrIsRefused :
    (State.resetWith 12).rej = true ∧ (State.resetWith 2).eng.phase ≠ .final ∧
    (withEng 2 (finalized .md5 md5Empty)).rej = false ∧
    Alg.ofCode (withEng 2 (finalized .md5 md5Empty)).sel = some .md5 ∧
    (withEng 2 (finalized .md5 md5Empty)).eng.phase = .final ∧ (15#8).toNat < Alg.md5.DL ∧
    (withEng 2 (finalized .md5 md5Empty)).eng.digest[(15#8).toNat]? = some 0x7e ∧ Alg.md5.DL ≤ (16#8).toNat := by decide

theorem witness_HkinitBeginsAKey :
    (State.resetWith 15).rej = true ∧ (State.resetWith 8).rej = false ∧
    Alg.ofCode (State.resetWith 8).sel = some .sha2_512_224 := by decide

theorem witness_HkupdTakesOneKeyByteOrIsRefused :
    (State.resetWith 12).rej = true ∧ keyedSha.hphase ≠ .keying ∧ keyingSha.rej = false ∧
    Alg.ofCode keyingSha.sel = some .sha2_256 ∧ keyingSha.hphase = .keying ∧
    keyingSha.inner.bitlen + 8 ≤ 2 ^ Alg.sha2_256.LW - 1 ∧
    ((msgSha (2 ^ 64 - 8) 63).setHphase .keying).hphase = .keying ∧
    ¬ ((msgSha (2 ^ 64 - 8) 63).setHphase .keying).inner.bitlen + 8 ≤ 2 ^ Alg.sha2_256.LW - 1 := by decide

/-- A key of exactly B bytes and one of B + 1. -/
theorem witness_HkfinEndsTheKeyOrIsRefused :
    (State.resetWith 12).rej = true ∧ keyedSha.hphase ≠ .keying ∧ keyingSha.rej = false ∧
    Alg.ofCode keyingSha.sel = some .sha2_256 ∧ (keyingSha.setKlen 64).hphase = .keying ∧
    (keyingSha.setKlen 64).klen ≤ Alg.sha2_256.B ∧ Alg.sha2_256.B < (keyingSha.setKlen 65).klen := by decide

theorem witness_HminitAbsorbsTheIpadBlockOrIsRefused :
    (State.resetWith 12).rej = true ∧ (State.resetWith 5).hphase = .noKey ∧ keyingSha.hphase = .keying ∧
    keyedSha.rej = false ∧ Alg.ofCode keyedSha.sel = some .sha2_256 ∧ keyedSha.hphase = .keyed ∧
    keyedSha.kbuf.length = Alg.sha2_256.B ∧ (msgSha 512 0).hphase = .msg ∧
    (msgSha 512 0).kbuf.length = Alg.sha2_256.B := by decide

theorem witness_HmupdAbsorbsOneMessageByteOrIsRefused :
    (State.resetWith 12).rej = true ∧ keyedSha.hphase ≠ .msg ∧ (msgSha 512 0).rej = false ∧
    Alg.ofCode (msgSha 512 0).sel = some .sha2_256 ∧ (msgSha 512 0).hphase = .msg ∧
    (msgSha 512 0).inner.bitlen + 8 ≤ 2 ^ Alg.sha2_256.LW - 1 ∧ (msgSha (2 ^ 64 - 8) 63).hphase = .msg ∧
    ¬ (msgSha (2 ^ 64 - 8) 63).inner.bitlen + 8 ≤ 2 ^ Alg.sha2_256.LW - 1 ∧
    keyedSha.hphase = .keyed ∧ keyedSha.kbuf.length = Alg.sha2_256.B ∧
    (msgSha 512 0).inner.bitlen = 8 * (Alg.sha2_256.B + 0) ∧
    (msgSha (2 ^ 64 - 8) 63).inner.bitlen = 8 * (Alg.sha2_256.B + (2 ^ (Alg.sha2_256.LW - 3) - 1 - Alg.sha2_256.B)) := by
  decide

theorem witness_HmfinComputesTheMacOrIsRefused :
    (State.resetWith 12).rej = true ∧ keyedSha.hphase ≠ .msg ∧ (msgSha 512 0).rej = false ∧
    Alg.ofCode (msgSha 512 0).sel = some .sha2_256 ∧ (msgSha 512 0).hphase = .msg ∧
    (msgSha 512 0).kbuf.length = Alg.sha2_256.B := by decide

theorem witness_HrdmReadsAMacByteOrIsRefused :
    (State.resetWith 12).rej = true ∧ keyedSha.hphase ≠ .done ∧ (keyedSha.setHphase .done).rej = false ∧
    Alg.ofCode (keyedSha.setHphase .done).sel = some .sha2_256 ∧ (keyedSha.setHphase .done).hphase = .done ∧
    (31#8).toNat < Alg.sha2_256.DL ∧ (keyedSha.setHphase .done).outer.digest[(31#8).toNat]? = some 0 ∧
    Alg.sha2_256.DL ≤ (32#8).toNat := by decide

theorem witness_EveryCommandWordIsAnsweredOnce :
    ((State.resetWith 5).setInput [.command 0xffff]).input = .command 0xffff :: [] ∧
    opField 0x0100 ≠ 0x04 ∧ opField 0x0100 ≠ 0x05 ∧ opField 0x0100 ≠ 0x24 ∧
    decode 0x040f = .ok (.rdd 15) ∧ (withEng 2 (finalized .md5 md5Empty)).eng.digest[(15#8).toNat]? = some 0x7e ∧
    step ((withEng 2 (finalized .md5 md5Empty)).setInput [.command 0x040f]) =
      .next ((withEng 2 (finalized .md5 md5Empty)).deliver (0x00#8 ++ 0x7e#8)) :=
  ⟨by decide, by decide, by decide, by decide, by decide, by decide, rfl⟩

theorem witness_RefusedCommandChangesOnlyItsErrBit :
    exec .fin (State.resetWith 5) = .next (refusedState .state (State.resetWith 5)) ∧
    (refusedState .state (State.resetWith 5)).out = (State.resetWith 5).out ++ [(0x03#8 ++ 0x00#8 : Word)] ∧
    (0x03#8 : Byte) ≠ 0 := ⟨rfl, rfl, by decide⟩

theorem witness_OnlyResetClearsErrBits :
    step ((State.resetWith 5).setInput [.command 0x0300]) =
      .next (refusedState .state ((State.resetWith 5).setInput [])) ∧
    (∀ n, ((State.resetWith 5).setInput [.command 0x0300]).input.head? ≠ some (.reset n)) ∧
    (∀ w n, ((State.resetWith 5).setInput [.command 0x0300]).input.head? ≠ some (.aborted w n)) ∧
    (refusedState .state ((State.resetWith 5).setInput [])).err ≠ ((State.resetWith 5).setInput [.command 0x0300]).err ∧
    (keyedSha.setInput [.reset 10]).input = .reset 10 :: [] := by
  refine ⟨rfl, ?_, ?_, by decide, rfl⟩ <;> simp [State.setInput]

/-- One input for each clause: a reserved and a legal word; then rejected; phase; index at DL; the limit; executed. -/
theorem witness_FirstApplicableFaultIsReported :
    (((State.resetWith 12).setInput [.command 0x0101]).input = .command 0x0101 :: [] ∧ legalWord 0x0101 = false ∧
      legalWord 0x0100 = true) ∧
    (State.resetWith 12).rej = rejOfStrap (State.resetWith 12).sel ∧ (State.resetWith 12).rej = true ∧
    (∀ n, Instr.fin ≠ .rds n) ∧
    (State.resetWith 2).rej = rejOfStrap (State.resetWith 2).sel ∧ (State.resetWith 2).rej = false ∧
    refusedInPhase (.rdd 200) (State.resetWith 2).eng.phase (State.resetWith 2).hphase = true ∧
    refusedInPhase (.rdd 16) (withEng 2 (finalized .md5 md5Empty)).eng.phase .noKey = false ∧
    badIndex (Alg.ofCode 2) (.rdd 16) ∧ ¬ badIndex (Alg.ofCode 2) (.rdd 15) ∧ badIndex none (.rds 6) ∧
    ¬ badIndex none (.rds 5) ∧
    pastLimit (Alg.ofCode 5) (.hmupd 1) (msgSha (2 ^ 64 - 8) 63) ∧
    ¬ pastLimit (Alg.ofCode 5) (.hmupd 1) (msgSha (2 ^ 64 - 16) 62) := by
  have h2 : Alg.ofCode 2 = some .md5 := by decide
  have h5 : Alg.ofCode 5 = some .sha2_256 := by decide
  refine ⟨by decide, by decide, by decide, by simp, by decide, by decide, by decide, by decide, ⟨.md5, h2, by decide⟩, ?_,
    by show 6 ≤ 6; omega, by show ¬ 6 ≤ 5; omega, ⟨.sha2_256, h5, by decide⟩, ?_⟩
  · rintro ⟨b, hb, h⟩; rw [h2] at hb; cases hb; exact absurd h (by decide)
  · rintro ⟨b, hb, h⟩; rw [h5] at hb; cases hb; exact absurd h (by decide)

theorem witness_RejectedCoreRefusesEverythingButRds :
    (State.resetWith 10).rej = true ∧ (∀ n, Instr.init ≠ .rds n) ∧ (State.resetWith 9).rej = false ∧
    Alg.ofCode (State.resetWith 9).sel = some .sha2_512_256 ∧
    exec .fin (State.resetWith 9) = .next (refusedState .state (State.resetWith 9)) :=
  ⟨by decide, by simp, by decide, by decide, rfl⟩

theorem witness_EngineCommandsFollowThePhaseTable :
    (State.resetWith 1).rej = false ∧ Alg.ofCode (State.resetWith 1).sel = some .md4 ∧
    (State.resetWith 11).rej = true := by decide

theorem witness_WrapperCommandsFollowTheHphaseTable :
    keyedSha.rej = false ∧ Alg.ofCode keyedSha.sel = some .sha2_256 ∧
    exec .hkfin keyedSha = .next (refusedState .state keyedSha) ∧ (0x03#8 : Byte) ≠ 0 :=
  ⟨by decide, by decide, rfl, by decide⟩

theorem witness_EngineAndWrapperCommandsTouchTheirOwnSide :
    exec .init keyedSha = .next ((keyedSha.setEng (engInit .sha2_256 keyedSha.eng)).deliver 0x0000) ∧
    isEngineCommand .init = true ∧ isEngineCommand .hkinit = false ∧ Instr.init ≠ .hmfin ∧ Instr.init ≠ .hkinit ∧
    (∀ b, Instr.init ≠ .hkupd b) ∧ Instr.init ≠ .hkfin := ⟨rfl, rfl, rfl, by simp, by simp, by simp, by simp⟩

theorem witness_EngineAndWrapperCommandsCommute :
    isEngineCommand (.upd 0x61) = true ∧ (∀ n, Instr.upd 0x61 ≠ .rds n) ∧ isEngineCommand .hkinit = false :=
  ⟨rfl, by simp, rfl⟩

theorem witness_StepKeepsTheInvariant :
    StateInv readyA ∧ step readyA = .next ((readyA.setInput []).setEng (engFinalize .sha2_256 readyA.eng) |>.deliver 0) :=
  ⟨readyA_inv, show exec .fin (readyA.setInput []) = _ from
    exec_of_effect (s := readyA.setInput []) (.fin (a := .sha2_256) rfl rfl)⟩

theorem witness_LooksAlikeIsKeptByEveryStep : StateInv readyA ∧ StateInv readyB ∧ LooksAlike readyA readyB ∧
    readyA ≠ readyB := ⟨readyA_inv, readyB_inv, readyA_readyB_look_alike, by decide⟩

theorem witness_UnspecifiedResetValuesNeverReachTheHost :
    StateInv ((State.resetWith 5).setInput [.command 0x0100, .command 0x0300, .command 0x0400]) ∧
    StateInv (((State.resetWith 5).setInput [.command 0x0100, .command 0x0300, .command 0x0400]).setKbuf (rep 0xff 64)) ∧
    (State.resetWith 5).eng.phase = .uninit ∧ (State.resetWith 5).hphase = .noKey :=
  ⟨reset_sha_inv _,
    inv_of_sha _ rfl rfl (engineAtReset_wf _) (engineAtReset_wf _) (engineAtReset_wf _) rfl rfl rfl, rfl, rfl⟩

theorem witness_ReadyInstanceIsDeterminedByItsMessage :
    ∃ e, e = absorbBytes .md2 (engInit .md2 (engineAtReset .md2)) (rep 0x61 17) ∧ e.buflen = 1 :=
  ⟨_, rfl, by decide +kernel⟩

/-- The longest message allowed and the empty one. -/
theorem witness_HashCommandsDeliverTheDigest :
    (State.resetWith 0).rej = false ∧ Alg.ofCode (State.resetWith 0).sel = some .md2 ∧
    ([] : List Byte).length ≤ maxBytes .md2 ∧ (rep 0x61 1000).length ≤ maxBytes .md2 ∧
    maxBytes .md2 = 2 ^ 61 - 1 := by
  refine ⟨by decide, by decide, by decide, ?_, by decide⟩
  rw [rep_length]; decide

theorem witness_KeyCommandsLeaveTheKeyBlock :
    (State.resetWith 5).rej = false ∧ Alg.ofCode (State.resetWith 5).sel = some .sha2_256 ∧
    (rep 0x6b 64).length ≤ maxBytes .sha2_256 ∧ (rep 0x6b 65).length ≤ maxBytes .sha2_256 := by decide

theorem witness_MessageCommandsLeaveTheMac :
    keyedSha.rej = false ∧ Alg.ofCode keyedSha.sel = some .sha2_256 ∧
    (keyedSha.hphase = .keyed ∨ keyedSha.hphase = .msg ∨ keyedSha.hphase = .done) ∧
    keyedSha.kbuf.length = Alg.sha2_256.B ∧ (rep 0x61 65).length + Alg.sha2_256.B ≤ maxBytes .sha2_256 := by decide

theorem witness_HmacCommandsDeliverOneMacPerItem :
    (State.resetWith 7).rej = false ∧ Alg.ofCode (State.resetWith 7).sel = some .sha2_512 ∧
    (rep 0x6b 129).length ≤ maxBytes .sha2_512 ∧
    (∀ m ∈ [[], rep 0x61 3], m.length + Alg.sha2_512.B ≤ maxBytes .sha2_512) := by decide +kernel

theorem witness_DigestHasTheTableLength :
    EngineWf .sha2_224 (fresh .sha2_224) ∧ (withEng 2 (finalized .md5 md5Empty)).rej = false ∧
    Alg.ofCode (withEng 2 (finalized .md5 md5Empty)).sel = some .md5 ∧
    (withEng 2 (finalized .md5 md5Empty)).eng.phase = .final := ⟨fresh_wf _, by decide, by decide, by decide⟩

theorem witness_PaddingTakesOneOrTwoBlocks :
    (rep 0x61 63).length < Alg.md5.B ∧ Alg.md5 ≠ .md2 ∧ (rep 0x61 55).length ≤ Alg.md5.B - Alg.md5.LF - 1 ∧
    Alg.md5.B - Alg.md5.LF ≤ (rep 0x61 56).length ∧ (rep 0x61 15).length < Alg.md2.B := by decide

theorem witness_PaddingFsmAgreesWithEngFinalize :
    ({ fresh .sha1 with buflen := 63 } : Engine).buflen < Alg.sha1.B ∧
    ({ fresh .sha1 with buflen := 63 } : Engine).buf.length = Alg.sha1.B := by decide

/-- Word 16 of the schedules of a zero block: every word read exists. -/
theorem witness_Sha1ScheduleRecurrence :
    16 ≤ 16 ∧ 16 < 80 ∧ (sha1Schedule (rep 0 64))[16 - 3]? = some 0 ∧ (sha1Schedule (rep 0 64))[16 - 8]? = some 0 ∧
    (sha1Schedule (rep 0 64))[16 - 14]? = some 0 ∧ (sha1Schedule (rep 0 64))[16 - 16]? = some 0 := by decide +kernel

theorem witness_Sha256ScheduleRecurrence :
    16 ≤ 16 ∧ 16 < 64 ∧ (sha256Schedule (rep 0 64))[16 - 2]? = some 0 ∧ (sha256Schedule (rep 0 64))[16 - 7]? = some 0 ∧
    (sha256Schedule (rep 0 64))[16 - 15]? = some 0 ∧ (sha256Schedule (rep 0 64))[16 - 16]? = some 0 := by decide +kernel

theorem witness_Sha512ScheduleRecurrence :
    16 ≤ 16 ∧ 16 < 80 ∧ (sha512Schedule (rep 0 128))[16 - 2]? = some 0 ∧ (sha512Schedule (rep 0 128))[16 - 7]? = some 0 ∧
    (sha512Schedule (rep 0 128))[16 - 15]? = some 0 ∧ (sha512Schedule (rep 0 128))[16 - 16]? = some 0 := by decide +kernel

theorem witness_HashStreamIsHashWhateverTheChunk : 0 < 1 ∧ hashStreamCommands 2 [1, 2, 3] = hashCommands [1, 2, 3] := by
  decide

theorem witness_MdFamilyCompressionsFollowTheirSteps :
    (rep 0 48).length = 48 ∧ (rep 0 16).length = 16 ∧ (rep 0x61 16).length = 16 := by decide

end Sys2Proof.Tests
end

/-! PROOFS. The statements of 10_state.md: ERR is sticky (rule R33), and what an instance in phase Ready holds (rule R29). -/

namespace Sys2Proof.Machine

/-! ### ERR is sticky (10_state.md rule R33) -/

/-- A step that is no reset keeps ERR, or it refuses a command and adds the bit of its fault. -/
theorem step_err_cases {s t : State} (h : step s = .next t) (hr : ∀ n, s.input.head? ≠ some (.reset n))
    (ha : ∀ w n, s.input.head? ≠ some (.aborted w n)) :
    t.err = s.err ∨ ∃ c, t.err = s.err ||| faultMask c ∧ t.out = s.out ++ [faultWord c] := by
  obtain ⟨-, hw⟩ | ⟨w, rest, -, ⟨c, hc⟩ | ⟨i, u, d, -, he, hu⟩⟩ | ⟨n, rest, hi, -⟩ | ⟨w, n, rest, hi, -⟩ := step_cases s
  · obtain rfl : s = t := by simpa [hw] using h
    exact .inl rfl
  · obtain rfl : refusedState c (s.setInput rest) = t := by simpa [hc] using h
    exact .inr ⟨c, by simp [setErrBit_eq], by simp [refusedWord_eq]⟩
  · obtain rfl : u.deliver (okWord d) = t := by simpa [hu] using h
    obtain ⟨-, -, herr, -, -⟩ := he.keeps
    exact .inl herr
  · exact absurd (by simp [hi]) (hr n)
  · exact absurd (by simp [hi]) (ha w n)

theorem and_or_self_left {w : Nat} (x y : BitVec w) : x &&& (x ||| y) = x := by
  ext i hi
  simp only [BitVec.getElem_and, BitVec.getElem_or]
  cases x[i] <;> rfl

/-- RDS 3 answers ERR and writes nothing (10_state.md rule R38). -/
theorem exec_rds_err (s : State) : exec (.rds 3) s = .next (s.deliver (BitVec.ofNat 16 s.err.toNat)) := by
  have hd : (stErr s).toNat = s.err.toNat := BitVec.toNat_setWidth_of_le (by decide)
  rw [exec_of_effect (.rds 3 rfl : Effect (.rds 3) s s (stErr s)), okWord_setWidth, hd]

theorem step_reset_err {s : State} {n : BitVec 4} {rest : List HostEvent} (h : s.input = .reset n :: rest) :
    ∃ t, step s = .next t ∧ t.err = errOfStrap n :=
  ⟨resetEvent n (s.setInput rest), by simp [step, fetch_cons h, runEvent], rfl⟩

/-- Settles O32: by the ways a step goes, only a refused command and a reset write ERR. -/
theorem onlyResetClearsErrBits : Obligations.OnlyResetClearsErrBits := by
  unfold Obligations.OnlyResetClearsErrBits
  refine ⟨fun s t h hr ha => ?_, fun s n rest h => step_reset_err h, exec_rds_err, rfl, rfl, rfl, rfl, rfl⟩
  obtain herr | ⟨c, herr, hout⟩ := step_err_cases h hr ha
  · exact ⟨by simp [herr], fun hne => absurd herr hne⟩
  · exact ⟨by rw [herr, and_or_self_left], fun _ => ⟨c, herr, hout⟩⟩

/-! ### The bytes of a message after its whole blocks -/

/-- The bytes of a message after its last whole block of B bytes: those an instance holds in BUF (10_state.md rule R29). -/
def pendingBytes (B : Nat) (s : List Byte) : List Byte := s.drop (s.length / B * B)

theorem pendingBytes_length (B : Nat) (s : List Byte) : (pendingBytes B s).length = s.length % B := by
  rw [pendingBytes, List.length_drop, Nat.mod_eq_sub_div_mul]

theorem pendingBytes_short (B : Nat) (s : List Byte) (h : s.length < B) : pendingBytes B s = s := by
  simp [pendingBytes, Nat.div_eq_of_lt h]

theorem pendingBytes_block (B : Nat) (s : List Byte) (h : s.length = B) : pendingBytes B s = [] :=
  List.eq_nil_of_length_eq_zero (by rw [pendingBytes_length, h, Nat.mod_self])

/-- The whole blocks of a message, as one sequence, and the bytes after them are the message. -/
theorem wholeBlocks_append_pendingBytes (B : Nat) (s : List Byte) :
    s.take (s.length / B * B) ++ pendingBytes B s = s := List.take_append_drop _ s

theorem wholeBlocks_length (B : Nat) (s : List Byte) : (s.take (s.length / B * B)).length = s.length / B * B :=
  List.length_take_of_le (Nat.div_mul_le_self _ _)

theorem pendingBytes_append_of_whole (B q : Nat) (hB : 0 < B) (u v : List Byte) (h : u.length = q * B) :
    pendingBytes B (u ++ v) = pendingBytes B v := by
  have hq : (u ++ v).length / B * B = u.length + v.length / B * B := by
    rw [List.length_append, h, Nat.add_comm, Nat.add_mul_div_right _ _ hB, Nat.add_mul, Nat.add_comm]
  rw [pendingBytes, hq, List.drop_append, List.drop_of_length_le (by omega), Nat.add_sub_cancel_left, pendingBytes,
    List.nil_append]

/-- Only the pending bytes of what came before matter for the pending bytes of a longer message. -/
theorem pendingBytes_append (B : Nat) (hB : 0 < B) (s t : List Byte) :
    pendingBytes B (s ++ t) = pendingBytes B (pendingBytes B s ++ t) := by
  conv_lhs => rw [← wholeBlocks_append_pendingBytes B s, List.append_assoc]
  exact pendingBytes_append_of_whole B _ hB _ _ (wholeBlocks_length B s)

/-- The blocks of a longer message are those of what came before, then those its pending bytes begin. -/
theorem blocksOf_append_pendingBytes (B : Nat) (hB : 0 < B) (s t : List Byte) :
    blocksOf B (s ++ t) = blocksOf B s ++ blocksOf B (pendingBytes B s ++ t) := by
  have hsplit (v : List Byte) : blocksOf B (s.take (s.length / B * B) ++ v) =
      blocksOf B (s.take (s.length / B * B)) ++ blocksOf B v :=
    blocksOf_append B _ hB _ _ (wholeBlocks_length B s)
  have hshort : blocksOf B (pendingBytes B s) = [] :=
    blocksOf_short B _ (by rw [pendingBytes_length]; exact Nat.mod_lt _ hB)
  have hs : blocksOf B s = blocksOf B (s.take (s.length / B * B)) := by
    conv_lhs => rw [← wholeBlocks_append_pendingBytes B s, hsplit, hshort, List.append_nil]
  conv_lhs => rw [← wholeBlocks_append_pendingBytes B s, List.append_assoc, hsplit, ← hs]

theorem compressBlocks_append_pendingBytes (a : Alg) (e : Engine) (s t : List Byte) :
    compressBlocks a e (s ++ t) = compressBlocks a (compressBlocks a e s) (pendingBytes a.B s ++ t) := by
  rw [compressBlocks, blocksOf_append_pendingBytes _ (B_pos a), List.foldl_append]; rfl

theorem compressBlocks_block (a : Alg) (e : Engine) (s : List Byte) (h : s.length = a.B) :
    compressBlocks a e s = compress a e s := by rw [compressBlocks, blocksOf_one _ (B_pos a) _ h]; rfl

theorem compressBlocks_short (a : Alg) (e : Engine) (s : List Byte) (h : s.length < a.B) :
    compressBlocks a e s = e := by rw [compressBlocks, blocksOf_short _ _ h]; rfl

/-! ### What a byte sequence absorbed after eng_init leaves (10_state.md rule R29) -/

theorem RegsAgree.trans {e f g : Engine} (h : RegsAgree e f) (k : RegsAgree f g) : RegsAgree e g :=
  ⟨h.h32_eq.trans k.h32_eq, h.h64_eq.trans k.h64_eq, h.x_eq.trans k.x_eq, h.c_eq.trans k.c_eq⟩

/-- `e` holds the message `msg` absorbed from `e0`: its whole blocks are compressed, its pending bytes lie in BUF. -/
structure HoldsMessage (a : Alg) (e0 e : Engine) (msg : List Byte) : Prop where
  buf_length : e.buf.length = a.B
  buflen_eq : e.buflen = (pendingBytes a.B msg).length
  buf_take : e.buf.take e.buflen = pendingBytes a.B msg
  regs : RegsAgree e (compressBlocks a e0 msg)

theorem HoldsMessage.buflen_mod {a : Alg} {e0 e : Engine} {msg : List Byte} (h : HoldsMessage a e0 e msg) :
    e.buflen = msg.length % a.B := h.buflen_eq.trans (pendingBytes_length _ _)

theorem HoldsMessage.buflen_lt {a : Alg} {e0 e : Engine} {msg : List Byte} (h : HoldsMessage a e0 e msg) :
    e.buflen < a.B := h.buflen_mod ▸ Nat.mod_lt _ (B_pos a)

/-- Right after eng_init an instance holds the empty message. -/
theorem engInit_holds_nil (a : Alg) (e : Engine) : HoldsMessage a (engInit a e) (engInit a e) [] :=
  ⟨by simp, by simp [pendingBytes], by simp [pendingBytes], by
    rw [compressBlocks_short a _ [] (B_pos a)]; exact ⟨rfl, rfl, rfl, rfl⟩⟩

theorem take_succ_set (s : List Byte) (n : Nat) (b : Byte) (h : n < s.length) :
    (s.set n b).take (n + 1) = s.take n ++ [b] := by
  rw [List.take_add_one, List.take_set_of_le (Nat.le_refl n)]; simp [h]

/-- The byte that fills the block compresses BUF with that byte in it; no other byte changes a working register. -/
theorem engAbsorb_regs (a : Alg) (e : Engine) (b : Byte) :
    RegsAgree (engAbsorb a e b)
      (if e.buflen + 1 = a.B then compress a (storeByte e b) ((engAbsorb a e b).buf.take a.B) else e) := by
  rw [engAbsorb_buf]
  unfold engAbsorb
  split <;> exact ⟨rfl, rfl, rfl, rfl⟩

/-- One more byte: it fills the block with the pending bytes, which is then compressed, or joins them in BUF. -/
theorem engAbsorb_holds {a : Alg} {e0 e : Engine} {msg : List Byte} (b : Byte) (h : HoldsMessage a e0 e msg) :
    HoldsMessage a e0 (engAbsorb a e b) (msg ++ [b]) := by
  have hlt := h.buflen_lt
  have hsize : (engAbsorb a e b).buf.length = a.B := by simp [h.buf_length]
  have hbuf : (engAbsorb a e b).buf.take (e.buflen + 1) = pendingBytes a.B msg ++ [b] := by
    rw [engAbsorb_buf, take_succ_set _ _ _ (by rw [h.buf_length]; exact hlt), h.buf_take]
  have hlen : (pendingBytes a.B msg ++ [b]).length = e.buflen + 1 := by simp [h.buflen_eq]
  have hpend := pendingBytes_append a.B (B_pos a) msg [b]
  have hcomp := compressBlocks_append_pendingBytes a e0 msg [b]
  have hlen' := engAbsorb_buflen a e b
  have hregs := engAbsorb_regs a e b
  by_cases hfull : e.buflen + 1 = a.B
  · have hblock := hlen.trans hfull
    rw [pendingBytes_block _ _ hblock] at hpend
    rw [compressBlocks_block _ _ _ hblock] at hcomp
    rw [if_pos hfull] at hlen' hregs
    rw [← hfull, hbuf] at hregs
    have hstore : RegsAgree (storeByte e b) (compressBlocks a e0 msg) :=
      ⟨h.regs.h32_eq, h.regs.h64_eq, h.regs.x_eq, h.regs.c_eq⟩
    refine ⟨hsize, by rw [hlen', hpend]; rfl, by rw [hlen', hpend]; rfl, ?_⟩
    rw [hcomp]
    exact hregs.trans (compress_agree a _ _ _ hstore)
  · have hshort : (pendingBytes a.B msg ++ [b]).length < a.B := by omega
    rw [pendingBytes_short _ _ hshort] at hpend
    rw [compressBlocks_short _ _ _ hshort] at hcomp
    rw [if_neg hfull] at hlen' hregs
    refine ⟨hsize, by rw [hlen', hpend, hlen], by rw [hlen', hpend, hbuf], ?_⟩
    rw [hcomp]
    exact hregs.trans h.regs

/-- After any byte sequence absorbed from eng_init an instance holds that message. -/
theorem absorbBytes_holds (a : Alg) (e : Engine) (msg : List Byte) :
    HoldsMessage a (engInit a e) (absorbBytes a (engInit a e) msg) msg := by
  induction msg using List.reverseRecOn with
  | nil => exact engInit_holds_nil a e
  | append_singleton msg b ih => rw [absorbBytes_append]; exact engAbsorb_holds b ih

/-- Settles O43, by induction on the message from its end. -/
theorem readyInstanceIsDeterminedByItsMessage : Obligations.ReadyInstanceIsDeterminedByItsMessage := by
  unfold Obligations.ReadyInstanceIsDeterminedByItsMessage
  rintro a e0 e msg rfl
  obtain ⟨hphase, -, hbitlen⟩ := absorbBytes_keeps a msg (engInit a e0)
  have h := absorbBytes_holds a e0 msg
  exact ⟨hphase, by simpa using hbitlen, h.buflen_mod, h.buflen_lt, h.buf_length, h.buf_take, h.regs.h32_eq,
    h.regs.h64_eq, h.regs.x_eq, h.regs.c_eq⟩

end Sys2Proof.Machine

/-! PROOFS. The statements of 30_encoding.md: every command word is answered once (rule R91). -/

namespace Sys2Proof

/-! ### The decoder reads nothing but encodings (30_encoding.md rules R90, R95) -/

/-- A format-N word decodes only with operand byte 0 (rule R90). -/
theorem formatN_ok {op arg : Byte} {i j : Instr} (h : formatN op arg i = .ok j) : arg = 0 ∧ i = j := by
  unfold formatN at h
  split at h
  · exact ⟨‹_›, Except.ok.inj h⟩
  · cases h

theorem decodeFields_ok {op arg : Byte} {i : Instr} (h : decodeFields op arg = .ok i) :
    encode i = commandWord op arg := by
  unfold decodeFields at h
  split at h
  case h_1 hop | h_3 hop | h_6 hop | h_8 hop | h_9 hop | h_11 hop =>
    obtain ⟨rfl, rfl⟩ := formatN_ok h
    rw [(BitVec.toNat_eq_nat.mp hop).2]; rfl
  case h_2 hop | h_4 hop | h_5 hop | h_7 hop | h_10 hop | h_12 hop =>
    cases h
    rw [(BitVec.toNat_eq_nat.mp hop).2]; rfl
  case h_13 => cases h

/-- A word that decodes is the encoding of what it decodes to. -/
theorem encode_of_decode {w : Word} {i : Instr} (h : decode w = .ok i) : encode i = w :=
  (decodeFields_ok h).trans (commandWord_fields w)

end Sys2Proof

namespace Sys2Proof.Machine

/-! ### Every command word is answered once (30_encoding.md rule R91) -/

theorem causeCode_le (c : Cause) : (causeCode c).toNat ≤ 5 := by cases c <;> decide

theorem causeCode_ne_zero (c : Cause) : causeCode c ≠ 0 := by cases c <;> decide

/-- `step_cases` when the HOST's next event is a command word. -/
theorem step_command_cases {s : State} {w : Word} {rest : List HostEvent} (h : s.input = .command w :: rest) :
    (∃ c, step s = .next (refusedState c (s.setInput rest))) ∨
    ∃ i t d, decode w = .ok i ∧ Effect i (s.setInput rest) t d ∧ step s = .next (t.deliver (okWord d)) := by
  simpa [h] using step_cases s

/-- Only the three read commands answer a data byte other than 0. -/
theorem Effect.data_eq_zero {i : Instr} {s t : State} {d : Byte} (h : Effect i s t d)
    (hrdd : opField (encode i) ≠ 0x04) (hrds : opField (encode i) ≠ 0x05) (hhrdm : opField (encode i) ≠ 0x24) :
    d = 0 := by
  cases h with
  | rdd => exact absurd (opField_commandWord _ _) hrdd
  | rds => exact absurd (opField_commandWord _ _) hrds
  | hrdm => exact absurd (opField_commandWord _ _) hhrdm
  | init | upd | fin | hkinit | hkupd | hkfinShort | hkfinLong | hminit | hmupd | hmfin => rfl

/-- A byte read in range is the byte that stands in DIGEST. -/
theorem digestByte_eq_getElem {a : Alg} {e : Engine} {k b d : Byte} (h : digestByte a e k = some b)
    (hd : e.digest[k.toNat]? = some d) : b = d := by
  obtain ⟨-, rfl⟩ := (digestByte_some a e k b).mp h
  simp [List.getD_eq_getElem?_getD, hd]

/-- Settles O30, by the two ways a command goes: refused with data 0, or its effect with the byte it reads. -/
theorem everyCommandWordIsAnsweredOnce : Obligations.EveryCommandWordIsAnsweredOnce := by
  unfold Obligations.EveryCommandWordIsAnsweredOnce
  intro s w rest h
  obtain ⟨c, hc⟩ | ⟨i, t, d, hw, he, ht⟩ := step_command_cases h
  · exact ⟨_, causeCode c, 0, hc, rfl, rfl, causeCode_le c, fun _ => rfl, fun _ _ _ => rfl,
      fun h0 => absurd h0 (causeCode_ne_zero c)⟩
  · obtain ⟨-, -, -, hinput, hout⟩ := he.keeps
    refine ⟨_, 0, d, ht, by simp [hinput], by simp [hout, okWord_eq], by decide, fun h0 => absurd rfl h0,
      fun h4 h5 h24 => ?_, fun _ j hj => ?_⟩
    · rw [← encode_of_decode hw] at h4 h5 h24
      exact he.data_eq_zero h4 h5 h24
    · obtain rfl : i = j := Except.ok.inj (hw.symm.trans hj)
      cases he with
      | rdd k _ _ hd => exact fun b hb => digestByte_eq_getElem hd hb
      | hrdm k _ _ hd => exact fun b hb => digestByte_eq_getElem hd hb
      | rds n hd => exact hd
      | init | upd | fin | hkinit | hkupd | hkfinShort | hkfinLong | hminit | hmupd | hmfin => rfl

end Sys2Proof.Machine

/-! PROOFS. The statements of 40_engine_commands.md: the micro-operations of an instance (rules R121, R123 to R125 and
R134) and the commands INIT, UPD, FIN, RDD, RDS (rules R120, R122, R126, R131, R132). -/

namespace Sys2Proof

/-! ### The written-out command words (30_encoding.md rules R90, R95) -/

/-- A format-A word as a sum: the word of its operation code plus the operand byte. -/
theorem add_setWidth_eq_commandWord {w : Word} {op : Byte} (arg : Byte) (h : w.toNat = 256 * op.toNat) :
    w + arg.setWidth 16 = commandWord op arg := by
  have hop := op.isLt
  have harg := arg.isLt
  apply BitVec.eq_of_toNat_eq
  rw [commandWord_toNat, BitVec.toNat_add, BitVec.toNat_setWidth_of_le (by decide), h]
  omega

theorem decode_add_setWidth {w : Word} {op : Byte} (arg : Byte) (h : w.toNat = 256 * op.toNat) :
    decode (w + arg.setWidth 16) = decodeFields op arg := by
  rw [add_setWidth_eq_commandWord arg h, decode_commandWord]

end Sys2Proof

namespace Sys2Proof.Machine

/-! ### eng_init (40_engine_commands.md rule R121) -/

theorem loadIv_x_of_ne_md2 {a : Alg} (e : Engine) (h : a ≠ .md2) : (loadIv a e).x = e.x := by
  cases a
  case md2 => exact absurd rfl h
  all_goals rfl

theorem loadIv_c_of_ne_md2 {a : Alg} (e : Engine) (h : a ≠ .md2) : (loadIv a e).c = e.c := by
  cases a
  case md2 => exact absurd rfl h
  all_goals rfl

theorem loadIv_h32_of_WW_ne {a : Alg} (e : Engine) (h : a.WW ≠ 32) : (loadIv a e).h32 = e.h32 := by
  cases a
  case md4 | md5 | sha1 | sha2_224 | sha2_256 => exact absurd rfl h
  all_goals rfl

theorem loadIv_h64_of_WW_ne {a : Alg} (e : Engine) (h : a.WW ≠ 64) : (loadIv a e).h64 = e.h64 := by
  cases a
  case sha2_384 | sha2_512 | sha2_512_224 | sha2_512_256 => exact absurd rfl h
  all_goals rfl

/-- Loading the IV again changes nothing, since eng_init reads no register it writes. -/
theorem engInit_idem (a : Alg) (e : Engine) : engInit a (engInit a e) = engInit a e := by cases a <;> rfl

/-- Settles O11: the working registers are those of `loadIv`, the rest is written by eng_init alone. -/
theorem engInitWritesIvZeroesBufferAndLength : Obligations.EngInitWritesIvZeroesBufferAndLength := by
  unfold Obligations.EngInitWritesIvZeroesBufferAndLength
  intro a e
  refine ⟨engInit_buf a e, engInit_buflen a e, engInit_bitlen a e, engInit_phase a e, engInit_digest a e, ?md2,
    fun h => ⟨loadIv_x_of_ne_md2 e h, loadIv_c_of_ne_md2 e h⟩, loadIv_h32_of_WW_ne e, loadIv_h64_of_WW_ne e, ?md45,
    ?_, ?_, ?_, ?_, ?_, ?_, ?_⟩
  case md2 => rintro rfl; exact ⟨rfl, rfl⟩
  case md45 => rintro (rfl | rfl) <;> rfl
  all_goals rintro rfl; rfl

/-! ### eng_absorb and compress (40_engine_commands.md rules R123, R124) -/

/-- Storing a byte before a compression or after it is the same: compress reads neither BUF nor BITLEN. -/
theorem compress_storeByte (a : Alg) (e : Engine) (b : Byte) (blk : List Byte) :
    compress a (storeByte e b) blk =
      { compress a e blk with buf := e.buf.set e.buflen b, bitlen := e.bitlen + 8 } := by
  cases a <;> simp only [compress, storeByte]

/-- Settles O12, by whether the byte fills the block. -/
theorem engAbsorbStoresAndCompressesTheFullBlock : Obligations.EngAbsorbStoresAndCompressesTheFullBlock := by
  unfold Obligations.EngAbsorbStoresAndCompressesTheFullBlock
  intro a e b hbuf
  constructor
  · intro hroom
    rw [engAbsorb, if_neg hroom]
    rfl
  · intro hfull
    have hblk : (storeByte e b).buf.take a.B = e.buf.set e.buflen b :=
      List.take_of_length_le (by simp [storeByte, hbuf])
    rw [engAbsorb, if_pos hfull, hblk, compress_storeByte]

/-- Settles O13: the arm of each algorithm. -/
theorem compressChangesOnlyTheWorkingRegisters : Obligations.CompressChangesOnlyTheWorkingRegisters := by
  unfold Obligations.CompressChangesOnlyTheWorkingRegisters
  intro e blk
  refine ⟨rfl, rfl, rfl, rfl, ?sha32, ?sha64⟩
  case sha32 => rintro a (rfl | rfl) <;> rfl
  case sha64 => rintro a (rfl | rfl | rfl | rfl) <;> rfl

/-! ### Commands that are refused (60_exceptions.md rule R274) -/

theorem raise_eq (c : Cause) (s : State) : raise c s = .next (afterRefusal c s) := by rw [raise, refusedState_eq]

/-- A rejected CORE refuses every command but RDS with ALG. -/
theorem exec_of_unconfigured {i : Instr} {s : State} (hc : configuredAlg s = none) (hi : ∀ n, i ≠ .rds n) :
    exec i s = .next (afterRefusal .alg s) := by
  rw [← raise_eq]
  cases i
  case rds n => exact absurd rfl (hi n)
  all_goals simp only [exec, execInit, execUpd, execFin, execRdd, execHkinit, execHkupd, execHkfin, execHminit,
    execHmupd, execHmfin, execHrdm, hc]

theorem exec_upd_of_not_ready {s : State} {a : Alg} (b : Byte) (ha : configuredAlg s = some a)
    (hp : s.eng.phase ≠ .ready) : exec (.upd b) s = .next (afterRefusal .state s) := by
  simp [exec, execUpd, ha, hp, raise_eq]

theorem exec_upd_of_limit {s : State} {a : Alg} (b : Byte) (ha : configuredAlg s = some a)
    (hp : s.eng.phase = .ready) (hl : lenOk a s.eng = false) :
    exec (.upd b) s = .next (afterRefusal .len s) := by
  simp [exec, execUpd, ha, hp, hl, raise_eq]

theorem exec_fin_of_not_ready {s : State} {a : Alg} (ha : configuredAlg s = some a) (hp : s.eng.phase ≠ .ready) :
    exec .fin s = .next (afterRefusal .state s) := by
  simp [exec, execFin, ha, hp, raise_eq]

theorem exec_rdd_of_not_final {s : State} {a : Alg} (i : Byte) (ha : configuredAlg s = some a)
    (hp : s.eng.phase ≠ .final) : exec (.rdd i) s = .next (afterRefusal .state s) := by
  simp [exec, execRdd, ha, hp, raise_eq]

theorem exec_rdd_of_bad_index {s : State} {a : Alg} {i : Byte} (ha : configuredAlg s = some a)
    (hp : s.eng.phase = .final) (hi : a.DL ≤ i.toNat) : exec (.rdd i) s = .next (afterRefusal .idx s) := by
  simp [exec, execRdd, ha, hp, (digestByte_none a s.eng i).mpr hi, raise_eq]

/-- No answer of an executed command is the answer of a refused one: the status bytes differ. -/
theorem okWord_ne_faultWord (d : Byte) (c : Cause) : okWord d ≠ faultWord c := by
  rw [← refusedWord_eq]
  intro h
  have hstatus : opField (commandWord 0 d) = opField (commandWord (causeCode c) 0) := congrArg opField h
  rw [opField_commandWord, opField_commandWord] at hstatus
  exact causeCode_ne_zero c hstatus.symm

/-- A command that has its effect is not refused. -/
theorem Effect.not_refused {i : Instr} {s t : State} {d : Byte} (h : Effect i s t d) (c : Cause) :
    exec i s ≠ .next (afterRefusal c s) := by
  intro heq
  obtain ⟨-, -, -, -, hout⟩ := h.keeps
  have hstate : t.deliver (okWord d) = afterRefusal c s :=
    Host.Outcome.next.inj ((exec_of_effect h).symm.trans heq)
  have hlog : s.out ++ [okWord d] = s.out ++ [faultWord c] := by
    simpa [afterRefusal, hout] using congrArg State.out hstate
  exact okWord_ne_faultWord d c (List.singleton_inj.mp (List.append_cancel_left hlog))

/-! ### len_ok (40_engine_commands.md rule R125) -/

theorem lenOk_iff (a : Alg) (e : Engine) : lenOk a e = true ↔ e.bitlen + 8 ≤ 2 ^ a.LW - 1 := decide_eq_true_iff

theorem lenOk_eq_false_iff (a : Alg) (e : Engine) : lenOk a e = false ↔ ¬ e.bitlen + 8 ≤ 2 ^ a.LW - 1 :=
  decide_eq_false_iff_not

/-- Of a whole number of bytes in range, only the largest is at the limit. -/
theorem lenOk_iff_ne (a : Alg) (e : Engine) (h8 : e.bitlen % 8 = 0) (hlt : e.bitlen < 2 ^ a.LW) :
    lenOk a e = true ↔ e.bitlen ≠ 2 ^ a.LW - 8 := by
  have hlimit := limit_eq a
  rw [lenOk_iff]
  omega

theorem lenOk_iff_maxBytes (a : Alg) (e : Engine) (h8 : e.bitlen % 8 = 0) (hlt : e.bitlen < 2 ^ a.LW) :
    lenOk a e = true ↔ e.bitlen / 8 < maxBytes a := by
  have hlimit := limit_eq a
  rw [lenOk_iff]
  omega

/-- Settles O18: the limit in its three forms, and the two commands at it. -/
theorem lenOkIsTheBitlenLimit : Obligations.LenOkIsTheBitlenLimit := by
  unfold Obligations.LenOkIsTheBitlenLimit
  intro a e
  refine ⟨lenOk_iff a e, fun h8 hlt => ⟨lenOk_iff_ne a e h8 hlt, lenOk_iff_maxBytes a e h8 hlt⟩, fun hl => ?_,
    fun s b hr hs hp hl => ?_⟩
  · have := (lenOk_iff a e).mp hl
    omega
  · have ha := configuredAlg_some hr hs
    exact ⟨exec_upd_of_limit b ha hp hl, exec_of_effect (.fin ha hp)⟩

/-! ### INIT, UPD, FIN (40_engine_commands.md rules R120, R122, R126) -/

/-- INIT on an instance that eng_init has just left only answers. -/
theorem exec_init_of_initialised {s : State} {a : Alg} {e : Engine} (ha : configuredAlg s = some a)
    (he : s.eng = engInit a e) : exec .init s = .next (s.deliver (okWord 0)) := by
  have h := exec_of_effect (.init ha)
  rw [he, engInit_idem, ← he] at h
  exact h

/-- Settles O19: the effect of INIT, twice; the second finds what the first wrote. -/
theorem initReinitialisesEng : Obligations.InitReinitialisesEng := by
  unfold Obligations.InitReinitialisesEng
  refine ⟨rfl, fun s hr => exec_of_unconfigured (configuredAlg_rejected hr) nofun, fun s a hr hs => ?_⟩
  exact ⟨_, exec_of_effect (.init (configuredAlg_some hr hs)), rfl, rfl, engInit_digest a s.eng,
    exec_init_of_initialised (configuredAlg_some hr hs) rfl⟩

/-- Settles O20, in the order of the guards of UPD. -/
theorem updAbsorbsOneByteOrIsRefused : Obligations.UpdAbsorbsOneByteOrIsRefused := by
  unfold Obligations.UpdAbsorbsOneByteOrIsRefused
  refine ⟨fun b => decode_add_setWidth (op := 0x02) b rfl,
    fun s b hr => exec_of_unconfigured (configuredAlg_rejected hr) nofun, fun s a b hr hs => ?_⟩
  have ha := configuredAlg_some hr hs
  exact ⟨exec_upd_of_not_ready b ha,
    fun hp hl => exec_upd_of_limit b ha hp ((lenOk_eq_false_iff a s.eng).mpr hl),
    fun hp hl => exec_of_effect (.upd b ha hp ((lenOk_iff a s.eng).mpr hl))⟩

/-- Settles O21: after the effect of FIN the phase is FINAL, so a second FIN meets its STATE guard. -/
theorem finProducesTheDigestOrIsRefused : Obligations.FinProducesTheDigestOrIsRefused := by
  unfold Obligations.FinProducesTheDigestOrIsRefused
  refine ⟨rfl, fun s hr => exec_of_unconfigured (configuredAlg_rejected hr) nofun, fun s a hr hs => ?_⟩
  have ha := configuredAlg_some hr hs
  refine ⟨exec_fin_of_not_ready ha, fun hp => ⟨_, exec_of_effect (.fin ha hp), rfl, engFinalize_phase a s.eng, ?_⟩⟩
  exact ⟨_, exec_fin_of_not_ready (configuredAlg_some hr hs) (by simp), rfl, rfl⟩

/-! ### RDD and the length of DIGEST (40_engine_commands.md rules R131, R134) -/

/-- Settles O22, in the order of the guards of RDD. -/
theorem rddReadsADigestByteOrIsRefused : Obligations.RddReadsADigestByteOrIsRefused := by
  unfold Obligations.RddReadsADigestByteOrIsRefused
  refine ⟨fun i => decode_add_setWidth (op := 0x04) i rfl,
    fun s i hr => exec_of_unconfigured (configuredAlg_rejected hr) nofun, fun s a i hr hs => ?_⟩
  have ha := configuredAlg_some hr hs
  refine ⟨exec_rdd_of_not_final i ha, exec_rdd_of_bad_index ha, fun hp hi d hd => ?_⟩
  have hread : digestByte a s.eng i = some d :=
    (digestByte_some a s.eng i d).mpr ⟨hi, by simp [List.getD_eq_getElem?_getD, hd]⟩
  rw [exec_of_effect (.rdd i ha hp hread), okWord_setWidth]
  rfl

/-- The digest of a whole message is extracted from working registers of the right sizes. -/
theorem digestOf_length (a : Alg) (msg : List Byte) : (digestOf a msg).length = a.DL := by
  have hiv : RegsSized a (loadIv a (engineAtReset a)) := loadIv_sized a _ (engineAtReset_wf a).sized
  have hblocks := compressMany_sized a (blocksOf a.B (paddedMessage a msg)) _ hiv
    fun b hb => (blocksOf_length_mem a.B _ b hb).ge
  exact extract_length a _ (compressChecksum_sized a _ hblocks)

/-- RDD on a finalized instance is refused with IDX exactly for the indices past the digest. -/
theorem exec_rdd_refused_iff {s : State} {a : Alg} (i : Byte) (ha : configuredAlg s = some a)
    (hp : s.eng.phase = .final) : exec (.rdd i) s = .next (afterRefusal .idx s) ↔ a.DL ≤ i.toNat := by
  refine ⟨fun hrefused => ?_, exec_rdd_of_bad_index ha hp⟩
  by_contra hi
  have hread := (digestByte_some a s.eng i _).mpr ⟨Nat.lt_of_not_le hi, rfl⟩
  exact (Effect.rdd i ha hp hread).not_refused .idx hrefused

/-- Settles O49: `extract` gives DL bytes, from an instance and from the whole message; RDD reads exactly those. -/
theorem digestHasTheTableLength : Obligations.DigestHasTheTableLength := by
  unfold Obligations.DigestHasTheTableLength
  exact ⟨fun a e h => (engFinalize_wf a e h).digest_length, digestOf_length,
    fun s a i hr hs hp => exec_rdd_refused_iff i (configuredAlg_some hr hs) hp⟩

/-! ### RDS (40_engine_commands.md rule R132, 10_state.md rules R34 to R40) -/

theorem statusRegister_none {n : Byte} (s : State) (h : 6 ≤ n.toNat) : statusRegister s n = none := by
  unfold statusRegister
  split
  case h_7 => rfl
  all_goals omega

theorem exec_rds_of_bad_index {n : Byte} (s : State) (h : 6 ≤ n.toNat) :
    exec (.rds n) s = .next (afterRefusal .idx s) := by
  simp [exec, execRds, statusRegister_none s h, raise_eq]

/-- RDS of a status register that exists answers its value and writes nothing. -/
theorem exec_rds_of_register {s : State} {n d : Byte} {w : Word} (h : statusRegister s n = some d)
    (hw : BitVec.ofNat 16 d.toNat = w) : exec (.rds n) s = .next { s with out := s.out ++ [w] } := by
  rw [exec_of_effect (.rds n h), okWord_setWidth, hw]
  rfl

/-- ST_ALG loses no bit in its byte: SEL is below 16 (10_state.md rule R35). -/
theorem stAlg_toNat (s : State) : (stAlg s).toNat = s.sel.toNat + 128 * s.rej.toNat := by
  have hsel := s.sel.isLt
  have hrej := s.rej.toNat_le
  rw [stAlg, BitVec.toNat_ofNat]
  omega

theorem stBlksz_of_configured {s : State} {a : Alg} (ha : configuredAlg s = some a) : (stBlksz s).toNat = a.B := by
  rw [stBlksz, ha]
  cases a <;> rfl

theorem stDiglen_of_configured {s : State} {a : Alg} (ha : configuredAlg s = some a) : (stDiglen s).toNat = a.DL := by
  rw [stDiglen, ha]
  cases a <;> rfl

theorem stBlksz_of_unconfigured {s : State} (hc : configuredAlg s = none) : stBlksz s = 0 := by rw [stBlksz, hc]

theorem stDiglen_of_unconfigured {s : State} (hc : configuredAlg s = none) : stDiglen s = 0 := by rw [stDiglen, hc]

/-- No instance has started after a reset, whatever the strap (70_reset_and_hazards.md rule R300). -/
theorem engineOfStrap_phase (algSel : BitVec 4) : (engineOfStrap algSel).phase = .uninit := by
  unfold engineOfStrap
  split <;> rfl

/-- Settles O10, register by register. -/
theorem rdsReadsTheSixStatusRegisters : Obligations.RdsReadsTheSixStatusRegisters := by
  unfold Obligations.RdsReadsTheSixStatusRegisters
  refine ⟨fun s => ⟨?alg, ?phase, ?hphase, exec_rds_err s, fun hr => ?rejBlksz, fun hr => ?rejDiglen,
    fun a hr hs => ⟨?blksz, ?diglen⟩, fun n hn => exec_rds_of_bad_index s hn⟩,
    fun algSel => ⟨rfl, rfl, rfl, engineOfStrap_phase algSel, rfl⟩⟩
  case alg => exact exec_rds_of_register (d := stAlg s) rfl (by rw [stAlg_toNat])
  case phase => exact exec_rds_of_register (d := stPhase s) rfl (by rw [stPhase]; cases s.eng.phase <;> rfl)
  case hphase => exact exec_rds_of_register (d := stHphase s) rfl (by rw [stHphase]; cases s.hphase <;> rfl)
  case rejBlksz =>
    exact exec_rds_of_register (d := stBlksz s) rfl (by rw [stBlksz_of_unconfigured (configuredAlg_rejected hr)]; rfl)
  case rejDiglen =>
    exact exec_rds_of_register (d := stDiglen s) rfl (by rw [stDiglen_of_unconfigured (configuredAlg_rejected hr)]; rfl)
  case blksz =>
    exact exec_rds_of_register (d := stBlksz s) rfl (by rw [stBlksz_of_configured (configuredAlg_some hr hs)])
  case diglen =>
    exact exec_rds_of_register (d := stDiglen s) rfl (by rw [stDiglen_of_configured (configuredAlg_some hr hs)])

end Sys2Proof.Machine

/-! PROOFS. The statements of 41_padding_and_digest.md: the layouts of the padding (rules R151 to R155), eng_finalize (rule
R150), the padding FSM (rule R156) and the digest finalizer (rule R158). -/

namespace Sys2Proof.Machine

/-! ### The layouts of the padding (41_padding_and_digest.md rules R151 to R155) -/

/-- The zeros end where the length field begins, in the block of the marker or in the next one. -/
theorem markTail_eq {B k : Nat} {m : List Byte} (field : List Byte) (hk : k < B) (hm : m.length < B) :
    markTail B k m field =
      m ++ [0x80] ++ rep 0x00 (if m.length ≤ k then k - m.length else k + B - m.length) ++ field := by
  have hzeros : (k + B - m.length) % B = if m.length ≤ k then k - m.length else k + B - m.length := by
    split
    · rw [Nat.sub_add_comm ‹_›, Nat.add_mod_right, Nat.mod_eq_of_lt (by omega)]
    · rw [Nat.mod_eq_of_lt (by omega)]
  rw [markTail, hzeros]

/-- Settles O14: the nine layouts with a marker are `markTail_eq`, that of MD2 is its definition. -/
theorem padTailHasTheLayoutOfItsAlgorithm : Obligations.PadTailHasTheLayoutOfItsAlgorithm := by
  unfold Obligations.PadTailHasTheLayoutOfItsAlgorithm
  refine ⟨?md, ?sha32, ?sha64, fun m l _ => rfl⟩
  case md => rintro m l a hm (rfl | rfl) <;> exact markTail_eq _ (by decide) hm
  case sha32 => rintro m l a hm (rfl | rfl | rfl) <;> exact markTail_eq _ (by decide) hm
  case sha64 => rintro m l a hm (rfl | rfl | rfl | rfl) <;> exact markTail_eq _ (by decide) hm

/-! ### The padded tail as the blocks the padding FSM fills (41_padding_and_digest.md rule R156) -/

theorem padTail_eq_markTail {a : Alg} (m : List Byte) (l : Nat) (h : a ≠ .md2) :
    padTail a m l = markTail a.B (a.B - a.LF - 1) m (lengthField a l) := by
  cases a
  case md2 => exact absurd rfl h
  all_goals rfl

theorem fieldFits_iff (a : Alg) (n : Nat) : fieldFits a n = true ↔ n ≤ a.B - a.LF - 1 := decide_eq_true_iff

/-- MD2 has no length field, so its padding never needs a second block. -/
theorem fieldFits_md2 {n : Nat} (h : n < Alg.md2.B) : fieldFits .md2 n = true :=
  (fieldFits_iff .md2 n).mpr (Nat.le_pred_of_lt h)

/-- The bytes P_MARK and P_FILL leave: the message bytes, the marker, and the fill up to position `k`. -/
def filledBlock (a : Alg) (m : List Byte) (k : Nat) : List Byte :=
  m ++ [padMarker a m.length] ++ rep (padFill a m.length) (k - (m.length + 1))

theorem filledBlock_length {a : Alg} {m : List Byte} {k : Nat} (h : m.length < k) : (filledBlock a m k).length = k := by
  simp only [filledBlock, List.length_append, List.length_singleton, rep_length]
  omega

theorem filledBlock_of_ne_md2 {a : Alg} (m : List Byte) (k : Nat) (h : a ≠ .md2) :
    filledBlock a m k = m ++ [0x80] ++ rep 0x00 (k - (m.length + 1)) := by
  rw [filledBlock, padMarker, padFill, if_neg h, if_neg h]

/-- For MD2 marker and fill are the same byte, p of them in all. -/
theorem filledBlock_md2 {m : List Byte} (h : m.length < 16) : filledBlock .md2 m 16 = padTailMd2 m := by
  obtain ⟨p, hp⟩ : ∃ p, 16 - m.length = p + 1 := ⟨15 - m.length, by omega⟩
  have hrest : 16 - (m.length + 1) = p := by omega
  simp [filledBlock, padMarker, padFill, padTailMd2, rep, hp, hrest, List.replicate_succ]

/-- When the length field fits, the padded tail is one block: filled up to the field, then the field. -/
theorem padTail_of_fits {a : Alg} {m : List Byte} (l : Nat) (hm : m.length < a.B) (h : fieldFits a m.length = true) :
    padTail a m l = filledBlock a m (a.B - a.LF) ++ lengthField a l := by
  by_cases ha : a = .md2
  · subst ha
    exact (filledBlock_md2 hm).symm.trans (List.append_nil _).symm
  · have hroom := (fieldFits_iff a _).mp h
    have hk : a.B - a.LF - 1 < a.B := by have := B_pos a; omega
    rw [padTail_eq_markTail m l ha, markTail_eq _ hk hm, if_pos hroom, filledBlock_of_ne_md2 m _ ha,
      Nat.sub_sub _ 1, Nat.add_comm 1]

/-- When it does not, the padded tail is two: one filled to its end, one of zeros up to the field and the field. -/
theorem padTail_of_not_fits {a : Alg} {m : List Byte} (l : Nat) (hm : m.length < a.B)
    (h : ¬ fieldFits a m.length = true) :
    padTail a m l = filledBlock a m a.B ++ (rep 0x00 (a.B - a.LF) ++ lengthField a l) := by
  have ha : a ≠ .md2 := by rintro rfl; exact h (fieldFits_md2 hm)
  have hLF := LF_lt_B a
  have hroom := mt (fieldFits_iff a _).mpr h
  have hzeros : a.B - a.LF - 1 + a.B - m.length = a.B - (m.length + 1) + (a.B - a.LF) := by omega
  rw [padTail_eq_markTail m l ha, markTail_eq _ (by omega) hm, if_neg hroom, filledBlock_of_ne_md2 m _ ha, hzeros,
    ← rep_append]
  simp only [List.append_assoc]

/-! ### eng_finalize (41_padding_and_digest.md rule R150) -/

/-- What follows the last compression: DIGEST extracted, BUFLEN 0, PHASE FINAL (rule R150; P_OUT of rule R156). -/
def emitDigest (a : Alg) (e : Engine) : Engine := { e with digest := extract a e, buflen := 0, phase := .final }

theorem engFinalize_eq_emitDigest (a : Alg) (e : Engine) : engFinalize a e = emitDigest a (compressTail a e) := rfl

theorem compressChecksum_of_ne_md2 {a : Alg} (e : Engine) (h : a ≠ .md2) : compressChecksum a e = e := by
  cases a
  case md2 => exact absurd rfl h
  all_goals rfl

/-- Settles O15: the instance e2 is `compressTail`, whose checksum block is there for MD2 only. -/
theorem engFinalizePadsCompressesAndExtracts : Obligations.EngFinalizePadsCompressesAndExtracts := by
  unfold Obligations.EngFinalizePadsCompressesAndExtracts
  intro a e e1 e2 h1 hne hmd2
  have h2 : e2 = compressChecksum a e1 := by
    by_cases ha : a = .md2
    · subst ha
      exact hmd2 rfl
    · rw [compressChecksum_of_ne_md2 e1 ha, hne ha]
  have htail : e2 = compressTail a e := by rw [h2, h1]; rfl
  exact ⟨by rw [htail, engFinalize_eq_emitDigest, emitDigest], engFinalize_buf a e, engFinalize_bitlen a e⟩

theorem compressTail_of_fits {a : Alg} {e : Engine} {m : List Byte} (hbuf : e.buf.take e.buflen = m)
    (hm : m.length < a.B) (h : fieldFits a m.length = true) :
    compressTail a e =
      compressChecksum a (compress a e (filledBlock a m (a.B - a.LF) ++ lengthField a e.bitlen)) := by
  have hroom := (fieldFits_iff a _).mp h
  have hlen : (padTail a m e.bitlen).length = a.B := by rw [padTail_length a m _ hm, if_pos (.inr hroom)]
  rw [compressTail, hbuf, compressBlocks_block a e _ hlen, padTail_of_fits _ hm h]

theorem compressBlocks_block_append (a : Alg) (e : Engine) (s t : List Byte) (hs : s.length = a.B) :
    compressBlocks a e (s ++ t) = compressBlocks a (compress a e s) t := by
  rw [compressBlocks_append_pendingBytes, compressBlocks_block a e s hs, pendingBytes_block _ _ hs, List.nil_append]

theorem compressTail_of_not_fits {a : Alg} {e : Engine} {m : List Byte} (hbuf : e.buf.take e.buflen = m)
    (hm : m.length < a.B) (h : ¬ fieldFits a m.length = true) :
    compressTail a e =
      compressChecksum a (compress a (compress a e (filledBlock a m a.B))
        (rep 0x00 (a.B - a.LF) ++ lengthField a e.bitlen)) := by
  have hlast : (rep 0x00 (a.B - a.LF) ++ lengthField a e.bitlen).length = a.B := by
    have := LF_lt_B a
    simp; omega
  rw [compressTail, hbuf, padTail_of_not_fits _ hm h, compressBlocks_block_append _ _ _ _ (filledBlock_length hm),
    compressBlocks_block _ _ _ hlast]

/-! ### The padding FSM (41_padding_and_digest.md rule R156) -/

theorem padFsmRun_eq_iterate (a : Alg) (e : Engine) :
    padFsmRun a e = (padFsmStep a e.buflen)^[6] ⟨.mark, e.buf.take e.buflen, e⟩ := rfl

/-- P_MARK and P_FILL when the length field fits in this block. -/
theorem padFsm_mark_fill_of_fits {a : Alg} {m : List Byte} (e : Engine) (h : fieldFits a m.length = true) :
    (padFsmStep a m.length)^[2] ⟨.mark, m, e⟩ = ⟨.len, filledBlock a m (a.B - a.LF), e⟩ := by
  simp [padFsmStep, h, filledBlock]

/-- P_MARK, P_FILL and P_SPILL when it does not. -/
theorem padFsm_mark_fill_spill_of_not_fits {a : Alg} {m : List Byte} (e : Engine)
    (h : ¬ fieldFits a m.length = true) :
    (padFsmStep a m.length)^[3] ⟨.mark, m, e⟩ =
      ⟨.len, rep 0x00 (a.B - a.LF), compress a e (filledBlock a m a.B)⟩ := by
  simp [padFsmStep, h, filledBlock]

/-- From P_LEN to the end: P_CSUM is walked for MD2 only; the other nine are at the end one move earlier and stay. -/
theorem padFsm_from_len (a : Alg) (n : Nat) (blk : List Byte) (e : Engine) :
    (padFsmStep a n)^[3] ⟨.len, blk, e⟩ =
      ⟨.done, blk ++ lengthField a e.bitlen,
        emitDigest a (compressChecksum a (compress a e (blk ++ lengthField a e.bitlen)))⟩ := by
  cases a <;> rfl

/-- The FSM ends in `done` on the instance of eng_finalize, by whether the length field fits. -/
theorem padFsm_finalizes {a : Alg} {e : Engine} {m : List Byte} (hbuf : e.buf.take e.buflen = m) (hm : m.length < a.B) :
    ∃ blk, (padFsmStep a m.length)^[6] ⟨.mark, m, e⟩ = ⟨.done, blk, engFinalize a e⟩ := by
  rw [engFinalize_eq_emitDigest]
  by_cases h : fieldFits a m.length = true
  · refine ⟨filledBlock a m (a.B - a.LF) ++ lengthField a e.bitlen, ?_⟩
    rw [compressTail_of_fits hbuf hm h, Function.iterate_add_apply _ 4 2, padFsm_mark_fill_of_fits e h,
      Function.iterate_add_apply _ 1 3, padFsm_from_len]
    rfl
  · refine ⟨rep 0x00 (a.B - a.LF) ++ lengthField a e.bitlen, ?_⟩
    rw [compressTail_of_not_fits hbuf hm h, Function.iterate_add_apply _ 3 3, padFsm_mark_fill_spill_of_not_fits e h,
      padFsm_from_len, compress_bitlen]

/-- Settles O51: the FSM fills the blocks of pad_tail one after the other (`padFsm_finalizes`). -/
theorem paddingFsmAgreesWithEngFinalize : Obligations.PaddingFsmAgreesWithEngFinalize := by
  unfold Obligations.PaddingFsmAgreesWithEngFinalize
  intro a e hlt hbuf
  have hlen : (e.buf.take e.buflen).length = e.buflen := List.length_take_of_le (by omega)
  obtain ⟨blk, hrun⟩ := padFsm_finalizes (a := a) (e := e) rfl (by rw [hlen]; exact hlt)
  rw [hlen, ← padFsmRun_eq_iterate] at hrun
  rw [hrun]
  exact ⟨rfl, rfl⟩

/-! ### The digest finalizer (41_padding_and_digest.md rule R158) -/

/-- Four words are 16 bytes, so cutting them to the digest length of MD4 and MD5 cuts nothing. -/
theorem flatMap_toLe32_four (w0 w1 w2 w3 : W32) :
    ([w0, w1, w2, w3].flatMap toLe32).take 16 = toLe32 w0 ++ toLe32 w1 ++ toLe32 w2 ++ toLe32 w3 := by
  rw [List.take_of_length_le (by simp)]
  simp

/-- Settles O16: `serialise` writes the bytes in this order for each algorithm, `extract` cuts them to DL. -/
theorem extractTakesTheFirstBytesInTheDeclaredOrder : Obligations.ExtractTakesTheFirstBytesInTheDeclaredOrder := by
  unfold Obligations.ExtractTakesTheFirstBytesInTheDeclaredOrder
  intro e
  refine ⟨?md2, ?md45, rfl, rfl, rfl, rfl, rfl, rfl, rfl⟩
  case md2 => exact List.take_take.trans rfl
  case md45 =>
    intro a w0 w1 w2 w3 ha hwords
    have hfour := flatMap_toLe32_four w0 w1 w2 w3
    rw [← hwords] at hfour
    obtain rfl | rfl := ha
    · exact hfour
    · exact hfour

end Sys2Proof.Machine

/-! PROOFS. The statement of 42_md_family.md: the compression functions as recurrences over their steps (rules
R175, R182 and R190). -/

namespace Sys2Proof.Machine

/-! ### A loop over 0 .. n-1 as a sequence -/

/-- What the loop `for i in 0 .. n-1` leaves: the state before step `n`. -/
def loopState {σ : Type} (step : σ → Nat → σ) (s : σ) (n : Nat) : σ := (List.range n).foldl step s

theorem loopState_succ {σ : Type} (step : σ → Nat → σ) (s : σ) (n : Nat) :
    loopState step s (n + 1) = step (loopState step s n) n := by
  simp [loopState, List.range_succ]

/-! ### MD5 and MD4 (42_md_family.md rules R175, R182) -/

theorem leWords32_getD (blk : List Byte) {j : Nat} (h : j < 16) :
    (leWords32 blk).getD j 0 = le32 ((blk.drop (4 * j)).take 4) := by
  simp [leWords32, slice, h]

theorem md5G_getD_lt : ∀ i < 64, Rom.md5G.getD i 0 < 16 := by decide

theorem md4G_getD_lt : ∀ i < 48, Rom.md4G.getD i 0 < 16 := by decide

/-- Division by 16 selects the constant of the stage (rule R180). -/
theorem md4K_getD_stage : ∀ i < 48,
    Rom.md4K.getD (i / 16) 0 = if i ≤ 15 then 0x00000000 else if i ≤ 31 then 0x5a827999 else 0x6ed9eba1 := by decide

theorem md5Step_eq (blk : List Byte) (v : Vars4) {i : Nat} (h : i < 64) :
    md5Step (leWords32 blk) v i =
      ⟨v.d, v.b + (v.a + md5Aux i v.b v.c v.d + le32 ((blk.drop (4 * Rom.md5G.getD i 0)).take 4) +
        Rom.md5K.getD i 0).rotateLeft (Rom.md5S.getD i 0), v.b, v.c⟩ := by
  rw [← leWords32_getD blk (md5G_getD_lt i h)]
  rfl

theorem md4Step_eq (blk : List Byte) (v : Vars4) {i : Nat} (h : i < 48) :
    md4Step (leWords32 blk) v i =
      ⟨v.d, (v.a + md4Aux i v.b v.c v.d + le32 ((blk.drop (4 * Rom.md4G.getD i 0)).take 4) +
        (if i ≤ 15 then 0x00000000 else if i ≤ 31 then 0x5a827999 else 0x6ed9eba1)).rotateLeft
          (Rom.md4S.getD i 0), v.b, v.c⟩ := by
  rw [← leWords32_getD blk (md4G_getD_lt i h), ← md4K_getD_stage i h]
  rfl

/-! ### MD2 (42_md_family.md rule R190) -/

/-- The byte before index `k` of `v`, where `t` stands before index 0. -/
theorem getD_cons_eq_ite (t : Byte) (v : List Byte) (k : Nat) :
    (t :: v).getD k 0 = if k = 0 then t else v.getD (k - 1) 0 := by
  cases k <;> rfl

/-- Each new byte of a pass depends on the new byte before it, the first on the t the pass began with. -/
theorem md2Pass_getD (v : List Byte) (t : Byte) (k : Nat) (h : k < v.length) :
    (md2Pass v t).1.getD k 0 = v.getD k 0 ^^^ Rom.md2S ((t :: (md2Pass v t).1).getD k 0) := by
  induction v generalizing t k with
  | nil => exact absurd h (Nat.not_lt_zero k)
  | cons x v ih =>
    cases k with
    | zero => rfl
    | succ k => exact ih (x ^^^ Rom.md2S t) k (Nat.lt_of_succ_lt_succ h)

/-- The t a pass leaves is its last new byte. -/
theorem md2Pass_left (v : List Byte) (t : Byte) : (md2Pass v t).2 = (t :: (md2Pass v t).1).getD v.length 0 := by
  induction v generalizing t with
  | nil => rfl
  | cons x v ih => exact ih (x ^^^ Rom.md2S t)

/-- Each new checksum byte depends on the new one before it, the first on the `l` given: an exclusive-or into C[j], no
assignment (rule R190). -/
theorem md2Checksum_getD (c blk : List Byte) (l : Byte) (j : Nat) (hc : j < c.length) (hb : j < blk.length) :
    (md2Checksum c blk l).getD j 0 =
      c.getD j 0 ^^^ Rom.md2S (blk.getD j 0 ^^^ (l :: md2Checksum c blk l).getD j 0) := by
  induction c generalizing blk l j with
  | nil => exact absurd hc (Nat.not_lt_zero j)
  | cons x c ih =>
    cases blk with
    | nil => exact absurd hb (Nat.not_lt_zero j)
    | cons m blk =>
      cases j with
      | zero => rfl
      | succ j => exact ih blk (x ^^^ Rom.md2S (m ^^^ l)) j (Nat.lt_of_succ_lt_succ hc) (Nat.lt_of_succ_lt_succ hb)

theorem md2Load_length {x blk : List Byte} (hx : 16 ≤ x.length) (hb : 16 ≤ blk.length) :
    (md2Load x blk).length = 48 := by
  simp [md2Load]; omega

theorem md2Load_of_block (x : List Byte) {blk : List Byte} (h : blk.length = 16) :
    md2Load x blk = x.take 16 ++ blk ++ List.zipWith (· ^^^ ·) (x.take 16) blk := by
  rw [md2Load, List.take_of_length_le h.le]

/-- What one pass of the state update does to the state bytes and to t, of 48 bytes. -/
theorem md2Round_of_length (v : List Byte × Byte) (j : Nat) (h : v.1.length = 48) :
    (md2Round v j).1.length = 48 ∧
    (∀ k < 48, (md2Round v j).1.getD k 0 =
      v.1.getD k 0 ^^^ Rom.md2S (if k = 0 then v.2 else (md2Round v j).1.getD (k - 1) 0)) ∧
    (md2Round v j).2 = (md2Round v j).1.getD 47 0 + BitVec.ofNat 8 j := by
  refine ⟨(md2Pass_length v.1 v.2).trans h, fun k hk => ?byte, ?left⟩
  case byte =>
    rw [← getD_cons_eq_ite]
    exact md2Pass_getD v.1 v.2 k (by omega)
  case left =>
    have hlast := md2Pass_left v.1 v.2
    rw [h] at hlast
    exact congrArg (· + BitVec.ofNat 8 j) hlast

/-! ### The statement of O59 -/

/-- The round variables of MD5 before step `i`. -/
def md5Vars (h : List W32) (blk : List Byte) : Nat → Vars4 := loopState (md5Step (leWords32 blk)) (loadVars4 h)

/-- The round variables of MD4 before step `i`. -/
def md4Vars (h : List W32) (blk : List Byte) : Nat → Vars4 := loopState (md4Step (leWords32 blk)) (loadVars4 h)

/-- The state bytes and the t of MD2 before pass `j`. -/
def md2Vars (x blk : List Byte) : Nat → List Byte × Byte := loopState md2Round (md2Load x blk, 0)

theorem compressMd5_eq_md5Vars (h : List W32) (blk : List Byte) :
    compressMd5 h blk = feedForward4 h (md5Vars h blk 64) := rfl

theorem compressMd4_eq_md4Vars (h : List W32) (blk : List Byte) :
    compressMd4 h blk = feedForward4 h (md4Vars h blk 48) := rfl

theorem compressMd2_fst (x c blk : List Byte) : (compressMd2 x c blk).1 = (md2Vars x blk 18).1 := by
  simp only [compressMd2, md2Vars, loopState]

theorem compressMd2_snd (x c blk : List Byte) : (compressMd2 x c blk).2 = md2Checksum c blk (c.getD 15 0) := rfl

theorem md2Vars_length {x blk : List Byte} (hx : 16 ≤ x.length) (hb : 16 ≤ blk.length) (j : Nat) :
    (md2Vars x blk j).1.length = 48 :=
  (md2Rounds_length _ _).trans (md2Load_length hx hb)

/-- Settles O59: the sequences are the states of the loops, one step each (`md5Step_eq`, `md4Step_eq`,
`md2Round_of_length`); the checksum is `md2Checksum_getD`. -/
theorem mdFamilyCompressionsFollowTheirSteps : Obligations.MdFamilyCompressionsFollowTheirSteps := by
  unfold Obligations.MdFamilyCompressionsFollowTheirSteps
  refine ⟨fun h0 h1 h2 h3 blk => ?md5, fun h0 h1 h2 h3 blk => ?md4, fun x c blk hx hc hb => ?md2⟩
  case md5 =>
    refine ⟨fun i => (md5Vars [h0, h1, h2, h3] blk i).a, fun i => (md5Vars [h0, h1, h2, h3] blk i).b,
      fun i => (md5Vars [h0, h1, h2, h3] blk i).c, fun i => (md5Vars [h0, h1, h2, h3] blk i).d,
      rfl, rfl, rfl, rfl, fun i hi => ?_, compressMd5_eq_md5Vars _ blk⟩
    have hstep := (loopState_succ _ _ i).trans (md5Step_eq blk (md5Vars [h0, h1, h2, h3] blk i) hi)
    exact ⟨congrArg Vars4.a hstep, congrArg Vars4.c hstep, congrArg Vars4.d hstep, congrArg Vars4.b hstep⟩
  case md4 =>
    refine ⟨fun i => (md4Vars [h0, h1, h2, h3] blk i).a, fun i => (md4Vars [h0, h1, h2, h3] blk i).b,
      fun i => (md4Vars [h0, h1, h2, h3] blk i).c, fun i => (md4Vars [h0, h1, h2, h3] blk i).d,
      rfl, rfl, rfl, rfl, fun i hi => ?_, compressMd4_eq_md4Vars _ blk⟩
    have hstep := (loopState_succ _ _ i).trans (md4Step_eq blk (md4Vars [h0, h1, h2, h3] blk i) hi)
    exact ⟨congrArg Vars4.a hstep, congrArg Vars4.c hstep, congrArg Vars4.d hstep, congrArg Vars4.b hstep⟩
  case md2 =>
    refine ⟨fun j => (md2Vars x blk j).1, fun j => (md2Vars x blk j).2, md2Load_of_block x hb, rfl, fun j _ => ?pass,
      compressMd2_fst x c blk, (compressMd2_c_length x c blk).trans hc, fun j hj => ?checksum⟩
    case pass =>
      have hstep : md2Vars x blk (j + 1) = md2Round (md2Vars x blk j) j := loopState_succ _ _ j
      simp only [hstep]
      exact md2Round_of_length _ j (md2Vars_length (by omega) (by omega) j)
    case checksum =>
      rw [← getD_cons_eq_ite, compressMd2_snd]
      exact md2Checksum_getD c blk _ j (by omega) (by omega)

end Sys2Proof.Machine

/-! PROOFS. The statement of 43_sha1.md, with those of 44_sha2_32.md and 45_sha2_64.md it stands beside: the SHA
compression functions as recurrences over their rounds (rules R204, R216 and R231). -/

namespace Sys2Proof.Machine

/-! ### A schedule that grows by one word a step

A schedule is built newest word first and reversed at the end, so a word stands at its final index as soon as it is
made, and the words a step reads are found at their final indices too. -/

/-- The words after `k` steps of a schedule that starts with `l`, newest first. -/
def scheduleWords {α : Type} (next : List α → α) (l : List α) : Nat → List α :=
  loopState (fun w _ => next w :: w) l

theorem scheduleWords_succ {α : Type} (next : List α → α) (l : List α) (k : Nat) :
    scheduleWords next l (k + 1) = next (scheduleWords next l k) :: scheduleWords next l k :=
  loopState_succ _ l k

@[simp] theorem scheduleWords_length {α : Type} (next : List α → α) (l : List α) (k : Nat) :
    (scheduleWords next l k).length = l.length + k := by
  induction k with
  | zero => rfl
  | succ k ih => rw [scheduleWords_succ, List.length_cons, ih, Nat.add_assoc]

/-- Later steps leave the words made before. -/
theorem scheduleWords_suffix {α : Type} (next : List α → α) (l : List α) {k n : Nat} (h : k ≤ n) :
    scheduleWords next l k <:+ scheduleWords next l n := by
  induction n, h using Nat.le_induction with
  | base => exact List.suffix_rfl
  | succ n _ ih =>
    rw [scheduleWords_succ]
    exact ih.trans (List.suffix_cons _ _)

theorem scheduleWords_getElem?_of_le {α : Type} (next : List α → α) (l : List α) {k n i : Nat} (h : k ≤ n)
    (hi : i < l.length + k) :
    (scheduleWords next l n).reverse[i]? = (scheduleWords next l k).reverse[i]? := by
  obtain ⟨newer, hnewer⟩ := scheduleWords_suffix next l h
  rw [← hnewer, List.reverse_append, List.getElem?_append_left (by simpa using hi)]

/-- The word made by step `k` is the next one after the words before it. -/
theorem scheduleWords_getElem?_made {α : Type} (next : List α → α) (l : List α) {k n : Nat} (h : k < n) :
    (scheduleWords next l n).reverse[l.length + k]? = some (next (scheduleWords next l k)) := by
  rw [scheduleWords_getElem?_of_le next l h (by omega), scheduleWords_succ]
  simp

/-- The word `m + 1` places back from the one that step `k` makes, at its final index. -/
theorem scheduleWords_getElem?_back {α : Type} (next : List α → α) (l : List α) {k n m : Nat} (h : k ≤ n)
    (hm : m < l.length + k) :
    (scheduleWords next l k)[m]? = (scheduleWords next l n).reverse[l.length + k - (m + 1)]? := by
  rw [scheduleWords_getElem?_of_le next l h (by omega), List.getElem?_reverse (by simp; omega), scheduleWords_length]
  congr 1
  omega

/-- The words a schedule starts with are its first ones. -/
theorem scheduleWords_getElem?_start {α : Type} (next : List α → α) (l : List α) (n : Nat) {i : Nat}
    (hi : i < l.length) : (scheduleWords next l n).reverse[i]? = l.reverse[i]? :=
  scheduleWords_getElem?_of_le next l (Nat.zero_le n) hi

/-! ### The SHA-1 schedule (43_sha1.md rule R204) -/

theorem beWords32_getD (blk : List Byte) {j : Nat} (h : j < 16) :
    (beWords32 blk).getD j 0 = be32 ((blk.drop (4 * j)).take 4) := by
  simp [beWords32, slice, h]

@[simp] theorem beWords32_length (blk : List Byte) : (beWords32 blk).length = 16 := by simp [beWords32]

theorem sha1Schedule_eq (blk : List Byte) :
    sha1Schedule blk = (scheduleWords sha1Next (beWords32 blk).reverse 64).reverse := rfl

theorem sha1Schedule_getD_block (blk : List Byte) {j : Nat} (h : j < 16) :
    (sha1Schedule blk).getD j 0 = be32 ((blk.drop (4 * j)).take 4) := by
  rw [← beWords32_getD blk h, sha1Schedule_eq, List.getD_eq_getElem?_getD,
    scheduleWords_getElem?_start _ _ _ (by simpa using h), List.reverse_reverse, List.getD_eq_getElem?_getD]

theorem sha1Schedule_getD_made (blk : List Byte) {k : Nat} (h : k < 64) :
    (sha1Schedule blk).getD (16 + k) 0 = sha1Next (scheduleWords sha1Next (beWords32 blk).reverse k) := by
  have hmade := scheduleWords_getElem?_made sha1Next (beWords32 blk).reverse h
  rw [List.length_reverse, beWords32_length] at hmade
  rw [sha1Schedule_eq, List.getD_eq_getElem?_getD, hmade, Option.getD_some]

theorem sha1Schedule_getD_back (blk : List Byte) {k m : Nat} (h : k ≤ 64) (hm : m < 16 + k) :
    (scheduleWords sha1Next (beWords32 blk).reverse k).getD m 0 = (sha1Schedule blk).getD (16 + k - (m + 1)) 0 := by
  have hback := scheduleWords_getElem?_back sha1Next (beWords32 blk).reverse h (m := m) (by simpa using hm)
  rw [List.length_reverse, beWords32_length] at hback
  rw [sha1Schedule_eq, List.getD_eq_getElem?_getD, hback, List.getD_eq_getElem?_getD]

theorem sha1Schedule_getD_recurrence (blk : List Byte) {j : Nat} (h16 : 16 ≤ j) (h80 : j < 80) :
    (sha1Schedule blk).getD j 0 =
      ((sha1Schedule blk).getD (j - 3) 0 ^^^ (sha1Schedule blk).getD (j - 8) 0 ^^^
        (sha1Schedule blk).getD (j - 14) 0 ^^^ (sha1Schedule blk).getD (j - 16) 0).rotateLeft 1 := by
  obtain ⟨k, rfl⟩ := Nat.exists_eq_add_of_le h16
  have hk : k < 64 := by omega
  rw [sha1Schedule_getD_made blk hk, sha1Next, sha1Schedule_getD_back blk hk.le (by omega),
    sha1Schedule_getD_back blk hk.le (by omega), sha1Schedule_getD_back blk hk.le (by omega),
    sha1Schedule_getD_back blk hk.le (by omega)]

/-! ### The statement of O60 -/

/-- The round variables of SHA-1 before round `i`. -/
def sha1Vars (h : List W32) (blk : List Byte) : Nat → Vars5 :=
  loopState (sha1Round (sha1Schedule blk)) ⟨h.getD 0 0, h.getD 1 0, h.getD 2 0, h.getD 3 0, h.getD 4 0⟩

/-- The round variables of the 32-bit SHA-2 compression before round `i`. -/
def sha256Vars (h : List W32) (blk : List Byte) : Nat → Vars8 32 :=
  loopState (sha256Round (sha256Schedule blk)) (loadVars8 h)

/-- The round variables of the 64-bit SHA-2 compression before round `i`. -/
def sha512Vars (h : List W64) (blk : List Byte) : Nat → Vars8 64 :=
  loopState (sha512Round (sha512Schedule blk)) (loadVars8 h)

theorem sha1Vars_succ (h : List W32) (blk : List Byte) (i : Nat) :
    sha1Vars h blk (i + 1) = sha1Round (sha1Schedule blk) (sha1Vars h blk i) i := loopState_succ _ _ i

theorem sha256Vars_succ (h : List W32) (blk : List Byte) (i : Nat) :
    sha256Vars h blk (i + 1) = sha256Round (sha256Schedule blk) (sha256Vars h blk i) i := loopState_succ _ _ i

theorem sha512Vars_succ (h : List W64) (blk : List Byte) (i : Nat) :
    sha512Vars h blk (i + 1) = sha512Round (sha512Schedule blk) (sha512Vars h blk i) i := loopState_succ _ _ i

/-- The five new values of a SHA-1 round, each from the values before the round. -/
theorem sha1Round_eq (w : List W32) (v : Vars5) (i : Nat) :
    sha1Round w v i =
      ⟨v.a.rotateLeft 5 + sha1Aux i v.b v.c v.d + v.e + Rom.sha1K.getD (i / 20) 0 + w.getD i 0,
        v.a, v.b.rotateLeft 30, v.c, v.d⟩ := rfl

theorem compressSha1_eq_sha1Vars (h0 h1 h2 h3 h4 : W32) (blk : List Byte) :
    compressSha1 [h0, h1, h2, h3, h4] blk =
      [h0 + (sha1Vars [h0, h1, h2, h3, h4] blk 80).a, h1 + (sha1Vars [h0, h1, h2, h3, h4] blk 80).b,
        h2 + (sha1Vars [h0, h1, h2, h3, h4] blk 80).c, h3 + (sha1Vars [h0, h1, h2, h3, h4] blk 80).d,
        h4 + (sha1Vars [h0, h1, h2, h3, h4] blk 80).e] := rfl

theorem compressSha256_eq_sha256Vars (h : List W32) (blk : List Byte) :
    compressSha256 h blk = feedForward8 h (sha256Vars h blk 64) := rfl

theorem compressSha512_eq_sha512Vars (h : List W64) (blk : List Byte) :
    compressSha512 h blk = feedForward8 h (sha512Vars h blk 80) := rfl

/-- The eight new values of a SHA-2 round, each from the values before the round. -/
theorem components_of_eq_rotateVars8 {w : Nat} {v v' : Vars8 w} {t1 t2 : BitVec w} (h : v' = rotateVars8 v t1 t2) :
    v'.a = t1 + t2 ∧ v'.b = v.a ∧ v'.c = v.b ∧ v'.d = v.c ∧ v'.e = v.d + t1 ∧ v'.f = v.e ∧ v'.g = v.f ∧
      v'.h = v.g := by
  subst h
  exact ⟨rfl, rfl, rfl, rfl, rfl, rfl, rfl, rfl⟩

/-- Eight sequences can be given as the components of one sequence of round variables. -/
theorem exists_of_vars8 {w : Nat} {p : (a b c d e f g h : Nat → BitVec w) → Prop} (v : Nat → Vars8 w)
    (hp : p (fun i => (v i).a) (fun i => (v i).b) (fun i => (v i).c) (fun i => (v i).d) (fun i => (v i).e)
      (fun i => (v i).f) (fun i => (v i).g) (fun i => (v i).h)) :
    ∃ a b c d e f g h, p a b c d e f g h :=
  ⟨_, _, _, _, _, _, _, _, hp⟩

/-- Settles O60: the sequences are the states of the loops, one round each (`sha1Vars_succ`, `sha256Vars_succ`,
`sha512Vars_succ`); the SHA-1 schedule is `sha1Schedule_getD_block` and `sha1Schedule_getD_recurrence`. -/
theorem shaCompressionsFollowTheirRounds : Obligations.ShaCompressionsFollowTheirRounds := by
  unfold Obligations.ShaCompressionsFollowTheirRounds
  refine ⟨fun h0 h1 h2 h3 h4 blk => ?sha1, fun h0 h1 h2 h3 h4 h5 h6 h7 blk => ?sha256,
    fun h0 h1 h2 h3 h4 h5 h6 h7 blk => ?sha512⟩
  case sha1 =>
    refine ⟨fun j => (sha1Schedule blk).getD j 0, fun i => (sha1Vars [h0, h1, h2, h3, h4] blk i).a,
      fun i => (sha1Vars [h0, h1, h2, h3, h4] blk i).b, fun i => (sha1Vars [h0, h1, h2, h3, h4] blk i).c,
      fun i => (sha1Vars [h0, h1, h2, h3, h4] blk i).d, fun i => (sha1Vars [h0, h1, h2, h3, h4] blk i).e,
      fun _ hj => sha1Schedule_getD_block blk hj, fun _ h16 h80 => sha1Schedule_getD_recurrence blk h16 h80,
      rfl, rfl, rfl, rfl, rfl, fun i _ => ?_, compressSha1_eq_sha1Vars h0 h1 h2 h3 h4 blk⟩
    have hround := (sha1Vars_succ [h0, h1, h2, h3, h4] blk i).trans (sha1Round_eq _ _ i)
    exact ⟨congrArg Vars5.a hround, congrArg Vars5.b hround, congrArg Vars5.c hround, congrArg Vars5.d hround,
      congrArg Vars5.e hround⟩
  case sha256 =>
    refine exists_of_vars8 (sha256Vars [h0, h1, h2, h3, h4, h5, h6, h7] blk)
      ⟨rfl, rfl, rfl, rfl, rfl, rfl, rfl, rfl, fun i _ => ?_, compressSha256_eq_sha256Vars _ blk⟩
    exact ⟨_, _, rfl, rfl, components_of_eq_rotateVars8 (sha256Vars_succ _ blk i)⟩
  case sha512 =>
    refine exists_of_vars8 (sha512Vars [h0, h1, h2, h3, h4, h5, h6, h7] blk)
      ⟨rfl, rfl, rfl, rfl, rfl, rfl, rfl, rfl, fun i _ => ?_, compressSha512_eq_sha512Vars _ blk⟩
    exact ⟨_, _, rfl, rfl, components_of_eq_rotateVars8 (sha512Vars_succ _ blk i)⟩

end Sys2Proof.Machine

/-! PROOFS. The statements of 44_sha2_32.md: the 32-bit message schedule (rules R214, R215), and what the truncated variants
share with the algorithm they truncate (rule R217; for the 64-bit family 45_sha2_64.md rule R234). -/

namespace Sys2Proof.Machine

/-! ### The 32-bit message schedule (44_sha2_32.md rules R214, R215) -/

/-- A word that stands at its final index is the word that step `k` reads `m + 1` places back. -/
theorem scheduleWords_getD_of_getElem? {α : Type} {next : List α → α} {l : List α} {k n m : Nat} {v d : α} (h : k ≤ n)
    (hm : m < l.length + k) (hv : (scheduleWords next l n).reverse[l.length + k - (m + 1)]? = some v) :
    (scheduleWords next l k).getD m d = v := by
  rw [List.getD_eq_getElem?_getD, scheduleWords_getElem?_back next l h hm, hv, Option.getD_some]

theorem beWords32_getElem? (blk : List Byte) {j : Nat} (h : j < 16) :
    (beWords32 blk)[j]? = some (be32 ((blk.drop (4 * j)).take 4)) := by
  simp [beWords32, slice, h]

theorem sha256Schedule_eq (blk : List Byte) :
    sha256Schedule blk = (scheduleWords sha256Next (beWords32 blk).reverse 48).reverse := rfl

theorem sha256Schedule_length (blk : List Byte) : (sha256Schedule blk).length = 64 := by simp [sha256Schedule_eq]

theorem sha256Schedule_getElem?_block (blk : List Byte) {j : Nat} (h : j < 16) :
    (sha256Schedule blk)[j]? = some (be32 ((blk.drop (4 * j)).take 4)) := by
  rw [sha256Schedule_eq, scheduleWords_getElem?_start _ _ _ (by simpa using h), List.reverse_reverse,
    beWords32_getElem? blk h]

theorem sha256Schedule_getElem?_made (blk : List Byte) {k : Nat} (h : k < 48) :
    (sha256Schedule blk)[16 + k]? = some (sha256Next (scheduleWords sha256Next (beWords32 blk).reverse k)) := by
  have hmade := scheduleWords_getElem?_made sha256Next (beWords32 blk).reverse h
  rwa [List.length_reverse, beWords32_length] at hmade

theorem sha256Schedule_back {blk : List Byte} {k m : Nat} {v : W32} (h : k ≤ 48) (hm : m < 16)
    (hv : (sha256Schedule blk)[16 + k - (m + 1)]? = some v) :
    (scheduleWords sha256Next (beWords32 blk).reverse k).getD m 0 = v := by
  have hlen : (beWords32 blk).reverse.length = 16 := by simp
  refine scheduleWords_getD_of_getElem? h (by omega) ?_
  rwa [hlen]

/-- Settles O53: the word that step `k` makes stands at index 16 + k, and the four words it reads stand at theirs
(`sha256Schedule_getElem?_made`, `sha256Schedule_back`). -/
theorem sha256ScheduleRecurrence : Obligations.Sha256ScheduleRecurrence := by
  unfold Obligations.Sha256ScheduleRecurrence
  refine fun blk => ⟨sha256Schedule_length blk, fun j hj => sha256Schedule_getElem?_block blk hj, ?recurrence⟩
  case recurrence =>
    intro j h16 h64 w2 w7 w15 w16 h2 h7 h15 h16'
    obtain ⟨k, rfl⟩ := Nat.exists_eq_add_of_le h16
    have hk : k < 48 := by omega
    rw [sha256Schedule_getElem?_made blk hk, sha256Next, sha256Schedule_back hk.le (by decide) h2,
      sha256Schedule_back hk.le (by decide) h7, sha256Schedule_back hk.le (by decide) h15,
      sha256Schedule_back hk.le (by decide) h16', ssig1W32, ssig0W32]

/-! ### The truncated variants (44_sha2_32.md rule R217, 45_sha2_64.md rule R234) -/

/-- Settles O17: the arms of each shared operation are the same within a family; the IV and DL are read off per algorithm. -/
theorem truncatedVariantsDifferOnlyInIvAndLength : Obligations.TruncatedVariantsDifferOnlyInIvAndLength := by
  unfold Obligations.TruncatedVariantsDifferOnlyInIvAndLength
  refine fun e blk m l => ⟨⟨rfl, rfl, rfl, rfl, rfl, rfl⟩, fun a iv dl ha => ?family64⟩
  case family64 =>
    obtain ⟨rfl, rfl, rfl⟩ | ⟨rfl, rfl, rfl⟩ | ⟨rfl, rfl, rfl⟩ | ⟨rfl, rfl, rfl⟩ := ha
    all_goals exact ⟨rfl, rfl, rfl, rfl⟩

end Sys2Proof.Machine

/-! PROOFS. The statement of 45_sha2_64.md: the 64-bit message schedule (rules R232, R233). -/

namespace Sys2Proof.Machine

/-! ### The 64-bit message schedule (45_sha2_64.md rules R232, R233) -/

/-- A SHA-2 schedule at any word size: the next word depends on the words 2, 7, 15 and 16 places before it only, so from
word 16 on it is determined by the words that stand there. -/
theorem scheduleWords_getElem?_sha2 {α : Type} {next : List α → α} {d w2 w7 w15 w16 v : α}
    (hnext : ∀ w, w.getD 1 d = w2 → w.getD 6 d = w7 → w.getD 14 d = w15 → w.getD 15 d = w16 → next w = v)
    {l : List α} (hl : l.length = 16) {n j : Nat} (h16 : 16 ≤ j) (hj : j < 16 + n)
    (h2 : (scheduleWords next l n).reverse[j - 2]? = some w2) (h7 : (scheduleWords next l n).reverse[j - 7]? = some w7)
    (h15 : (scheduleWords next l n).reverse[j - 15]? = some w15)
    (hw16 : (scheduleWords next l n).reverse[j - 16]? = some w16) :
    (scheduleWords next l n).reverse[j]? = some v := by
  rw [← hl] at h16 hj
  obtain ⟨k, rfl⟩ := Nat.exists_eq_add_of_le h16
  have hk : k < n := by omega
  have hread {m : Nat} {u} (hm : m < 16) (hu : (scheduleWords next l n).reverse[l.length + k - (m + 1)]? = some u) :
      (scheduleWords next l k).getD m d = u := scheduleWords_getD_of_getElem? hk.le (by omega) hu
  rw [scheduleWords_getElem?_made next l hk,
    hnext _ (hread (by decide) h2) (hread (by decide) h7) (hread (by decide) h15) (hread (by decide) hw16)]

@[simp] theorem beWords64_length (blk : List Byte) : (beWords64 blk).length = 16 := by simp [beWords64]

theorem beWords64_getElem? (blk : List Byte) {j : Nat} (h : j < 16) :
    (beWords64 blk)[j]? = some (be64 ((blk.drop (8 * j)).take 8)) := by
  simp [beWords64, slice, h]

theorem sha512Schedule_eq (blk : List Byte) :
    sha512Schedule blk = (scheduleWords sha512Next (beWords64 blk).reverse 64).reverse := rfl

theorem sha512Schedule_length (blk : List Byte) : (sha512Schedule blk).length = 80 := by simp [sha512Schedule_eq]

theorem sha512Schedule_getElem?_block (blk : List Byte) {j : Nat} (h : j < 16) :
    (sha512Schedule blk)[j]? = some (be64 ((blk.drop (8 * j)).take 8)) := by
  rw [sha512Schedule_eq, scheduleWords_getElem?_start _ _ _ (by simpa using h), List.reverse_reverse,
    beWords64_getElem? blk h]

/-- Settles O54: the first 16 words are the block's; each later one is the sum of rule R233 of the words that
`sha512Next` reads, which stand at their final indices (`scheduleWords_getElem?_sha2`). -/
theorem sha512ScheduleRecurrence : Obligations.Sha512ScheduleRecurrence := by
  unfold Obligations.Sha512ScheduleRecurrence
  refine fun blk => ⟨sha512Schedule_length blk, fun j hj => sha512Schedule_getElem?_block blk hj, ?recurrence⟩
  case recurrence =>
    intro j h16 h80 w2 w7 w15 w16 h2 h7 h15 hw16
    rw [sha512Schedule_eq] at h2 h7 h15 hw16 ⊢
    refine scheduleWords_getElem?_sha2 (d := 0) (fun w hr2 hr7 hr15 hr16 => ?sum) (by simp) h16 h80 h2 h7 h15 hw16
    case sum => rw [sha512Next, hr2, hr7, hr15, hr16, ssig1W64, ssig0W64]

end Sys2Proof.Machine

/-! PROOFS. The statements of 46_hmac.md: the commands of the HMAC wrapper (rules R241, R242, R246, R248 to R250, R252)
and the table of the wrapper phases (rule R254). -/

namespace Sys2Proof.Machine

/-! ### The guards of a command, in the order they are tested (60_exceptions.md rules R273, R275 to R277) -/

theorem eq_of_decide_ne {α : Type} {x y : α} [Decidable (x ≠ y)] (h : decide (x ≠ y) = false) : x = y :=
  not_not.mp (of_decide_eq_false h)

/-- HMINIT is refused in the phases in which no complete key is loaded. -/
theorem refusedInPhase_hminit (p : Phase) (h : HPhase) : refusedInPhase .hminit p h = !keyLoaded h := by cases h <;> rfl

theorem exec_of_refusedInPhase {i : Instr} {s : State} {a : Alg} (ha : configuredAlg s = some a)
    (hp : refusedInPhase i s.eng.phase s.hphase = true) : exec i s = .next (afterRefusal .state s) := by
  cases i with
  | init | rds | hkinit => exact absurd hp nofun
  | upd b => exact exec_upd_of_not_ready b ha (of_decide_eq_true hp)
  | fin => exact exec_fin_of_not_ready ha (of_decide_eq_true hp)
  | rdd k => exact exec_rdd_of_not_final k ha (of_decide_eq_true hp)
  | hkupd b => simp [exec, execHkupd, ha, of_decide_eq_true hp, raise_eq]
  | hkfin => simp [exec, execHkfin, ha, of_decide_eq_true hp, raise_eq]
  | hminit =>
    have hkey : keyLoaded s.hphase = false := by simpa [refusedInPhase_hminit] using hp
    simp [exec, execHminit, ha, hkey, raise_eq]
  | hmupd b => simp [exec, execHmupd, ha, of_decide_eq_true hp, raise_eq]
  | hmfin => simp [exec, execHmfin, ha, of_decide_eq_true hp, raise_eq]
  | hrdm k => simp [exec, execHrdm, ha, of_decide_eq_true hp, raise_eq]

theorem exec_of_badIndex {i : Instr} {s : State} {a : Alg} (ha : configuredAlg s = some a)
    (hp : refusedInPhase i s.eng.phase s.hphase = false) (hb : badIndex (some a) i) :
    exec i s = .next (afterRefusal .idx s) := by
  cases i with
  | init | upd | fin | hkinit | hkupd | hkfin | hminit | hmupd | hmfin => exact hb.elim
  | rdd k =>
    obtain ⟨_, ⟨⟩, hk⟩ := hb
    exact exec_rdd_of_bad_index ha (eq_of_decide_ne hp) hk
  | rds n => exact exec_rds_of_bad_index s hb
  | hrdm k =>
    obtain ⟨_, ⟨⟩, hk⟩ := hb
    have hdone : s.hphase = .done := eq_of_decide_ne hp
    simp [exec, execHrdm, ha, hdone, (digestByte_none a s.outer k).mpr hk, raise_eq]

/-- Past the limit of rule R125 is the failed `len_ok` test of the commands. -/
theorem lenOk_eq_false_of_lt {a : Alg} {e : Engine} (h : 2 ^ a.LW - 1 < e.bitlen + 8) : lenOk a e = false :=
  (lenOk_eq_false_iff a e).mpr (Nat.not_le_of_lt h)

theorem exec_of_pastLimit {i : Instr} {s : State} {a : Alg} (ha : configuredAlg s = some a)
    (hp : refusedInPhase i s.eng.phase s.hphase = false) (hl : pastLimit (some a) i s) :
    exec i s = .next (afterRefusal .len s) := by
  cases i with
  | init | fin | rdd | rds | hkinit | hkfin | hminit | hmfin | hrdm => exact hl.elim
  | upd b =>
    obtain ⟨_, ⟨⟩, hl⟩ := hl
    exact exec_upd_of_limit b ha (eq_of_decide_ne hp) (lenOk_eq_false_of_lt hl)
  | hkupd b =>
    obtain ⟨_, ⟨⟩, hl⟩ := hl
    have hkeying : s.hphase = .keying := eq_of_decide_ne hp
    simp [exec, execHkupd, ha, hkeying, lenOk_eq_false_of_lt hl, raise_eq]
  | hmupd b =>
    obtain ⟨_, ⟨⟩, hl⟩ := hl
    have hmsg : s.hphase = .msg := eq_of_decide_ne hp
    simp [exec, execHmupd, ha, hmsg, lenOk_eq_false_of_lt hl, raise_eq]

/-- A digest byte is read whenever the index is not past the digest. -/
theorem exists_digestByte {a : Alg} {k : Byte} (e : Engine) (h : ¬ ∃ b, some a = some b ∧ b.DL ≤ k.toNat) :
    ∃ d, digestByte a e k = some d :=
  ⟨_, (digestByte_some a e k _).mpr ⟨Nat.lt_of_not_le fun hk => h ⟨a, rfl, hk⟩, rfl⟩⟩

theorem exists_statusRegister {n : Byte} (s : State) (h : ¬ 6 ≤ n.toNat) : ∃ d, statusRegister s n = some d := by
  have hn : n.toNat < 6 := by omega
  unfold statusRegister
  interval_cases n.toNat <;> exact ⟨_, rfl⟩

theorem lenOk_of_not_pastLimit {a : Alg} {e : Engine} (h : ¬ ∃ b : Alg, some a = some b ∧ 2 ^ b.LW - 1 < e.bitlen + 8) :
    lenOk a e = true :=
  (lenOk_iff a e).mpr (Nat.le_of_not_lt fun hl => h ⟨a, rfl, hl⟩)

/-- A configured CORE carries out every command that meets none of the three guards. -/
theorem exists_effect_of_guards {i : Instr} {s : State} {a : Alg} (ha : configuredAlg s = some a)
    (hp : refusedInPhase i s.eng.phase s.hphase = false) (hb : ¬ badIndex (some a) i) (hl : ¬ pastLimit (some a) i s) :
    ∃ t d, Effect i s t d := by
  cases i with
  | init => exact ⟨_, _, .init ha⟩
  | upd b => exact ⟨_, _, .upd b ha (eq_of_decide_ne hp) (lenOk_of_not_pastLimit hl)⟩
  | fin => exact ⟨_, _, .fin ha (eq_of_decide_ne hp)⟩
  | rdd k =>
    obtain ⟨d, hd⟩ := exists_digestByte s.eng hb
    exact ⟨_, _, .rdd k ha (eq_of_decide_ne hp) hd⟩
  | rds n =>
    obtain ⟨d, hd⟩ := exists_statusRegister s hb
    exact ⟨_, _, .rds n hd⟩
  | hkinit => exact ⟨_, _, .hkinit ha⟩
  | hkupd b => exact ⟨_, _, .hkupd b ha (eq_of_decide_ne hp) (lenOk_of_not_pastLimit hl)⟩
  | hkfin =>
    have hkeying : s.hphase = .keying := eq_of_decide_ne hp
    obtain hk | hk := Nat.lt_or_ge a.B s.klen
    · exact ⟨_, _, .hkfinLong ha hkeying hk⟩
    · exact ⟨_, _, .hkfinShort ha hkeying hk⟩
  | hminit =>
    have hkey : keyLoaded s.hphase = true := by simpa [refusedInPhase_hminit] using hp
    exact ⟨_, _, .hminit ha hkey⟩
  | hmupd b => exact ⟨_, _, .hmupd b ha (eq_of_decide_ne hp) (lenOk_of_not_pastLimit hl)⟩
  | hmfin => exact ⟨_, _, .hmfin ha (eq_of_decide_ne hp)⟩
  | hrdm k =>
    obtain ⟨d, hd⟩ := exists_digestByte s.outer hb
    exact ⟨_, _, .hrdm k ha (eq_of_decide_ne hp) hd⟩

/-! ### The table of the wrapper phases (46_hmac.md rule R254) -/

theorem hphaseCell_engine {i : Instr} (h : HPhase) (hi : isEngineCommand i = true) :
    hphaseCell h i = (h, [0x00, 0x03, 0x04, 0x05]) := by
  cases i with
  | hkinit | hkupd | hkfin | hminit | hmupd | hmfin | hrdm => exact absurd hi nofun
  | init | upd | fin | rdd | rds => cases h <;> rfl

/-- `CellRefuses h i c`: the cell of the table lets the command be refused for `c`, and HPHASE then stays. -/
def CellRefuses (h : HPhase) (i : Instr) (c : Cause) : Prop :=
  (hphaseCell h i).1 = h ∧ causeCode c ∈ (hphaseCell h i).2

theorem cellRefuses_of_eq {h : HPhase} {i : Instr} {c : Cause} {statuses : List Byte}
    (hcell : hphaseCell h i = (h, statuses)) (hc : causeCode c ∈ statuses) : CellRefuses h i c := by
  rw [CellRefuses, hcell]
  exact ⟨rfl, hc⟩

theorem cellRefuses_state {i : Instr} {p : Phase} {h : HPhase} (hp : refusedInPhase i p h = true) :
    CellRefuses h i .state := by
  cases i with
  | init | upd | fin | rdd | rds => exact cellRefuses_of_eq (hphaseCell_engine h rfl) (by decide)
  | hkinit => exact absurd hp nofun
  | hkupd | hkfin =>
    cases h with
    | keying => exact absurd hp nofun
    | noKey | keyed | msg | done => exact cellRefuses_of_eq rfl (by decide)
  | hminit =>
    cases h with
    | noKey | keying => exact cellRefuses_of_eq rfl (by decide)
    | keyed | msg | done => exact absurd hp nofun
  | hmupd | hmfin =>
    cases h with
    | msg => exact absurd hp nofun
    | noKey | keying | keyed | done => exact cellRefuses_of_eq rfl (by decide)
  | hrdm =>
    cases h with
    | done => exact absurd hp nofun
    | noKey | keying | keyed | msg => exact cellRefuses_of_eq rfl (by decide)

theorem cellRefuses_idx {i : Instr} {p : Phase} {h : HPhase} {a : Option Alg} (hp : refusedInPhase i p h = false)
    (hb : badIndex a i) : CellRefuses h i .idx := by
  cases i with
  | init | upd | fin | rdd | rds => exact cellRefuses_of_eq (hphaseCell_engine h rfl) (by decide)
  | hkinit | hkupd | hkfin | hminit | hmupd | hmfin => exact hb.elim
  | hrdm =>
    obtain rfl : h = .done := eq_of_decide_ne hp
    exact cellRefuses_of_eq rfl (by decide)

theorem cellRefuses_len {i : Instr} {s : State} {a : Option Alg}
    (hp : refusedInPhase i s.eng.phase s.hphase = false) (hl : pastLimit a i s) : CellRefuses s.hphase i .len := by
  cases i with
  | init | upd | fin | rdd | rds => exact cellRefuses_of_eq (hphaseCell_engine s.hphase rfl) (by decide)
  | hkinit | hkfin | hminit | hmfin | hrdm => exact hl.elim
  | hkupd =>
    have hkeying : s.hphase = .keying := eq_of_decide_ne hp
    rw [hkeying]
    exact cellRefuses_of_eq rfl (by decide)
  | hmupd =>
    have hmsg : s.hphase = .msg := eq_of_decide_ne hp
    rw [hmsg]
    exact cellRefuses_of_eq rfl (by decide)

/-- A command that has its effect moves HPHASE as its cell says, and the cell lists the status OK. -/
theorem Effect.hphaseCell_eq {i : Instr} {s t : State} {d : Byte} (h : Effect i s t d) :
    t.hphase = (hphaseCell s.hphase i).1 ∧ 0 ∈ (hphaseCell s.hphase i).2 := by
  cases h with
  | init | upd | fin | rdd | rds =>
    rw [hphaseCell_engine s.hphase rfl]
    exact ⟨rfl, List.mem_cons_self⟩
  | hkinit => cases hs : s.hphase <;> exact ⟨rfl, by decide⟩
  | hkupd _ _ hp | hkfinShort _ hp | hkfinLong _ hp | hmupd _ _ hp | hmfin _ hp | hrdm _ _ hp =>
    simp [hphaseCell, hp]
  | hminit _ hp => obtain hs | hs | hs := (keyLoaded_iff s.hphase).mp hp <;> simp [hphaseCell, hs]

/-- A configured CORE carries a command out, or refuses it for a cause that the cell of the table lists. -/
theorem exec_hphaseCell_cases {i : Instr} {s : State} {a : Alg} (ha : configuredAlg s = some a) :
    (∃ c, CellRefuses s.hphase i c ∧ exec i s = .next (afterRefusal c s)) ∨ ∃ t d, Effect i s t d := by
  cases hp : refusedInPhase i s.eng.phase s.hphase with
  | true => exact .inl ⟨.state, cellRefuses_state hp, exec_of_refusedInPhase ha hp⟩
  | false =>
    by_cases hb : badIndex (some a) i
    · exact .inl ⟨.idx, cellRefuses_idx hp hb, exec_of_badIndex ha hp hb⟩
    · by_cases hl : pastLimit (some a) i s
      · exact .inl ⟨.len, cellRefuses_len hp hl, exec_of_pastLimit ha hp hl⟩
      · exact .inr (exists_effect_of_guards ha hp hb hl)

theorem faultWord_eq_append (c : Cause) : faultWord c = causeCode c ++ (0 : Byte) := by cases c <;> rfl

/-- Settles O36: the guard a command meets gives the status, its effect the next HPHASE. -/
theorem wrapperCommandsFollowTheHphaseTable : Obligations.WrapperCommandsFollowTheHphaseTable := by
  unfold Obligations.WrapperCommandsFollowTheHphaseTable
  intro i s a hr hs
  obtain ⟨c, ⟨hstay, hstatus⟩, hexec⟩ | ⟨t, d, heffect⟩ := exec_hphaseCell_cases (i := i) (configuredAlg_some hr hs)
  · refine ⟨_, causeCode c, 0, hexec, ?_, hstay.symm, hstatus, fun _ => ⟨rfl, rfl, rfl, rfl, rfl⟩⟩
    rw [← faultWord_eq_append]
    rfl
  · obtain ⟨-, -, -, -, hout⟩ := heffect.keeps
    obtain ⟨hphase, hstatus⟩ := heffect.hphaseCell_eq
    exact ⟨_, 0, d, exec_of_effect heffect, by simp [hout, okWord_eq], hphase, hstatus, fun h0 => absurd rfl h0⟩

/-! ### The key commands HKINIT, HKUPD, HKFIN (46_hmac.md rules R241, R242, R246) -/

/-- Settles O23: HKINIT has no guard but that of the configured algorithm. -/
theorem hkinitBeginsAKey : Obligations.HkinitBeginsAKey := by
  unfold Obligations.HkinitBeginsAKey
  exact ⟨rfl, fun s hr => exec_of_unconfigured (configuredAlg_rejected hr) nofun,
    fun s a hr hs => exec_of_effect (.hkinit (configuredAlg_some hr hs))⟩

/-- Settles O24, in the order of the guards of HKUPD. -/
theorem hkupdTakesOneKeyByteOrIsRefused : Obligations.HkupdTakesOneKeyByteOrIsRefused := by
  unfold Obligations.HkupdTakesOneKeyByteOrIsRefused
  refine ⟨fun b => decode_add_setWidth (op := 0x12) b rfl,
    fun s b hr => exec_of_unconfigured (configuredAlg_rejected hr) nofun, fun s a b hr hs => ?_⟩
  have ha := configuredAlg_some hr hs
  exact ⟨fun hp => exec_of_refusedInPhase ha (decide_eq_true hp),
    fun hp hl => exec_of_pastLimit ha (by simp [refusedInPhase, hp]) ⟨a, rfl, Nat.lt_of_not_le hl⟩,
    fun hp hl => exec_of_effect (.hkupd b ha hp ((lenOk_iff a s.inner).mpr hl))⟩

/-- Settles O25, by whether the key is longer than the block. -/
theorem hkfinEndsTheKeyOrIsRefused : Obligations.HkfinEndsTheKeyOrIsRefused := by
  unfold Obligations.HkfinEndsTheKeyOrIsRefused
  refine ⟨rfl, fun s hr => exec_of_unconfigured (configuredAlg_rejected hr) nofun, fun s a hr hs => ?_⟩
  have ha := configuredAlg_some hr hs
  exact ⟨fun hp => exec_of_refusedInPhase ha (decide_eq_true hp), fun hp hk => exec_of_effect (.hkfinShort ha hp hk),
    fun hp hk => exec_of_effect (.hkfinLong ha hp hk)⟩

/-! ### The pad block (46_hmac.md rules R248, R250) -/

/-- The pad block of a key buffer of B bytes is the whole buffer under the pad. -/
theorem absorbPad_eq {a : Alg} (e : Engine) {kbuf : List Byte} (pad : Byte) (h : kbuf.length = a.B) :
    absorbPad a e kbuf pad = (kbuf.map (· ^^^ pad)).foldl (engAbsorb a) (engInit a e) := by
  rw [absorbPad, List.take_of_length_le h.le]
  rfl

/-- The pad block is exactly one block: no byte of it stays in BUF. -/
theorem absorbPad_buflen {a : Alg} (e : Engine) {kbuf : List Byte} (pad : Byte) (h : kbuf.length = a.B) :
    (absorbPad a e kbuf pad).buflen = 0 := by
  rw [absorbPad, (absorbBytes_holds a e _).buflen_mod]
  simp [h]

/-! ### The message commands HMINIT, HMUPD, HMFIN (46_hmac.md rules R248 to R250) -/

/-- Settles O26: INNER after the pad block is that of `absorbPad`. -/
theorem hminitAbsorbsTheIpadBlockOrIsRefused : Obligations.HminitAbsorbsTheIpadBlockOrIsRefused := by
  unfold Obligations.HminitAbsorbsTheIpadBlockOrIsRefused
  refine ⟨rfl, fun s hr => exec_of_unconfigured (configuredAlg_rejected hr) nofun, fun s a hr hs => ?_⟩
  have ha := configuredAlg_some hr hs
  refine ⟨fun hp => exec_of_refusedInPhase ha (decide_eq_true hp), fun hp hk => ?_⟩
  refine ⟨_, exec_of_effect (.hminit ha ((keyLoaded_iff s.hphase).mpr hp)), ?_, absorbPad_buflen s.inner ipad hk,
    absorbPad_bitlen a s.inner s.kbuf ipad hk, absorbPad_phase a s.inner s.kbuf ipad⟩
  rw [absorbPad_eq s.inner ipad hk]
  rfl

theorem exec_hmupd_of_limit {s : State} {a : Alg} (b : Byte) (ha : configuredAlg s = some a) (hp : s.hphase = .msg)
    (hl : ¬ s.inner.bitlen + 8 ≤ 2 ^ a.LW - 1) : exec (.hmupd b) s = .next (afterRefusal .len s) :=
  exec_of_pastLimit ha (by simp [refusedInPhase, hp]) ⟨a, rfl, Nat.lt_of_not_le hl⟩

/-- In H_MSG the limit is the only reason for which HMUPD is refused. -/
theorem exec_hmupd_refused_iff {s : State} {a : Alg} (b : Byte) (ha : configuredAlg s = some a)
    (hp : s.hphase = .msg) :
    exec (.hmupd b) s = .next (afterRefusal .len s) ↔ ¬ s.inner.bitlen + 8 ≤ 2 ^ a.LW - 1 :=
  ⟨fun hrefused hl => (Effect.hmupd b ha hp ((lenOk_iff a s.inner).mpr hl)).not_refused .len hrefused,
    exec_hmupd_of_limit b ha hp⟩

/-- The item limit: of the bytes an instance can absorb, the ipad block has taken B. -/
theorem item_limit_iff {a : Alg} {e : Engine} {n : Nat} (h : e.bitlen = 8 * (a.B + n)) :
    ¬ e.bitlen + 8 ≤ 2 ^ a.LW - 1 ↔ maxBytes a - a.B ≤ n := by
  have hlimit := limit_eq a
  omega

/-- Settles O27, in the order of the guards of HMUPD; the item limit counts the ipad block that HMINIT absorbed. -/
theorem hmupdAbsorbsOneMessageByteOrIsRefused : Obligations.HmupdAbsorbsOneMessageByteOrIsRefused := by
  unfold Obligations.HmupdAbsorbsOneMessageByteOrIsRefused
  refine ⟨fun b => decode_add_setWidth (op := 0x22) b rfl,
    fun s b hr => exec_of_unconfigured (configuredAlg_rejected hr) nofun, fun s a b hr hs => ?_⟩
  have ha := configuredAlg_some hr hs
  refine ⟨fun hp => exec_of_refusedInPhase ha (decide_eq_true hp), exec_hmupd_of_limit b ha,
    fun hp hl => ⟨exec_of_effect (.hmupd b ha hp ((lenOk_iff a s.inner).mpr hl)), engAbsorb_bitlen a s.inner b⟩,
    fun hp hk => ?hminit, fun hp n hn => ?itemLimit⟩
  case hminit =>
    exact ⟨_, exec_of_effect (.hminit ha ((keyLoaded_iff s.hphase).mpr hp)), rfl,
      absorbPad_bitlen a s.inner s.kbuf ipad hk⟩
  case itemLimit => exact (exec_hmupd_refused_iff b ha hp).trans (item_limit_iff hn)

theorem outerDigest_eq {a : Alg} (outer inner : Engine) {kbuf : List Byte} (h : kbuf.length = a.B) :
    outerDigest a outer inner kbuf = engFinalize a ((inner.digest.take a.DL).foldl (engAbsorb a)
      ((kbuf.map (· ^^^ 0x5c)).foldl (engAbsorb a) (engInit a outer))) := by
  rw [outerDigest, absorbPad_eq outer opad h]
  rfl

/-- Settles O28: the outer digest is that of `outerDigest`; a second HMFIN finds H_DONE, not H_MSG. -/
theorem hmfinComputesTheMacOrIsRefused : Obligations.HmfinComputesTheMacOrIsRefused := by
  unfold Obligations.HmfinComputesTheMacOrIsRefused
  refine ⟨rfl, fun s hr => exec_of_unconfigured (configuredAlg_rejected hr) nofun, fun s a hr hs => ?_⟩
  have ha := configuredAlg_some hr hs
  refine ⟨fun hp => exec_of_refusedInPhase ha (decide_eq_true hp), fun hp hk => ?_⟩
  rw [exec_of_effect (.hmfin ha hp), outerDigest_eq s.outer _ hk]
  rfl

/-! ### HRDM (46_hmac.md rule R252) -/

/-- Settles O29, in the order of the guards of HRDM. -/
theorem hrdmReadsAMacByteOrIsRefused : Obligations.HrdmReadsAMacByteOrIsRefused := by
  unfold Obligations.HrdmReadsAMacByteOrIsRefused
  refine ⟨fun i => decode_add_setWidth (op := 0x24) i rfl,
    fun s i hr => exec_of_unconfigured (configuredAlg_rejected hr) nofun, fun s a i hr hs => ?_⟩
  have ha := configuredAlg_some hr hs
  refine ⟨fun hp => exec_of_refusedInPhase ha (decide_eq_true hp),
    fun hp hi => exec_of_badIndex ha (by simp [refusedInPhase, hp]) ⟨a, rfl, hi⟩, fun hp hi d hd => ?_⟩
  have hread : digestByte a s.outer i = some d :=
    (digestByte_some a s.outer i d).mpr ⟨hi, by simp [List.getD_eq_getElem?_getD, hd]⟩
  rw [exec_of_effect (.hrdm i ha hp hread), okWord_setWidth]
  rfl

end Sys2Proof.Machine

/-! PROOFS. The statements of 60_exceptions.md: a rejected CORE (rule R271), the reserved words (rule R272), what a
refused command leaves unchanged (rule R274), and the order of the faults (rule R277). -/

namespace Sys2Proof

/-! ### The legal words are the words that decode (30_encoding.md rules R95, R97) -/

theorem legalWord_encode (i : Instr) : legalWord (encode i) = true := by
  cases i with
  | init => exact Laws.EncodedLegal.init
  | upd b => exact Laws.EncodedLegal.upd b
  | fin => exact Laws.EncodedLegal.fin
  | rdd k => exact Laws.EncodedLegal.rdd k
  | rds n => exact Laws.EncodedLegal.rds n
  | hkinit => exact Laws.EncodedLegal.hkinit
  | hkupd b => exact Laws.EncodedLegal.hkupd b
  | hkfin => exact Laws.EncodedLegal.hkfin
  | hminit => exact Laws.EncodedLegal.hminit
  | hmupd b => exact Laws.EncodedLegal.hmupd b
  | hmfin => exact Laws.EncodedLegal.hmfin
  | hrdm k => exact Laws.EncodedLegal.hrdm k

theorem legalWord_of_decode {w : Word} {i : Instr} (h : decode w = .ok i) : legalWord w = true :=
  encode_of_decode h ▸ legalWord_encode i

theorem formatN_error {op arg : Byte} {i : Instr} {r : Reserved} (h : formatN op arg i = .error r) : arg ≠ 0 := by
  rintro rfl
  exact absurd h nofun

/-- What the decoder turns away is reserved: a format-N opcode with an operand, or no opcode at all. -/
theorem decodeFields_error {op arg : Byte} {r : Reserved} (h : decodeFields op arg = .error r) :
    legalWord (commandWord op arg) = false := by
  unfold decodeFields at h
  split at h
  case h_1 hop | h_3 hop | h_6 hop | h_8 hop | h_9 hop | h_11 hop =>
    rw [legalWord_formatN op arg (by simp [hop])]
    exact decide_eq_false (formatN_error h)
  case h_2 | h_4 | h_5 | h_7 | h_10 | h_12 => cases h
  case h_13 => exact legalWord_otherOp op arg (by simp_all)

theorem legalWord_of_decode_error {w : Word} {r : Reserved} (h : decode w = .error r) : legalWord w = false :=
  commandWord_fields w ▸ decodeFields_error h

end Sys2Proof

namespace Sys2Proof.Machine

theorem step_command {s : State} {w : Word} {rest : List HostEvent} (h : s.input = .command w :: rest) :
    step s = runWord w (s.setInput rest) := by
  rw [step, fetch_cons h]
  rfl

/-! ### Reserved words (60_exceptions.md rule R272) -/

theorem runWord_reserved {w : Word} (s : State) (h : legalWord w = false) :
    runWord w s = .next (afterRefusal .cmd s) := by
  cases hd : decode w with
  | ok i => exact absurd (legalWord_of_decode hd) (by simp [h])
  | error r => rw [runWord, hd, raise_eq]

theorem runWord_legal {w : Word} (s : State) (h : legalWord w = true) :
    ∃ i, decode w = .ok i ∧ runWord w s = exec i s := by
  cases hd : decode w with
  | ok i => exact ⟨i, rfl, by rw [runWord, hd]⟩
  | error r => exact absurd h (by simp [legalWord_of_decode_error hd])

/-- Settles O6: the decoder turns the word away before the state is looked at. -/
theorem reservedWordIsRefusedBeforeAnythingElse : Obligations.ReservedWordIsRefusedBeforeAnythingElse := by
  unfold Obligations.ReservedWordIsRefusedBeforeAnythingElse
  intro s w rest hin hw
  exact (step_command hin).trans (runWord_reserved _ hw)

/-! ### What a refused command leaves unchanged (60_exceptions.md rule R274) -/

/-- The state after a command: that of a refusal, or that of its effect with the response OK. -/
theorem exec_eq_cases {i : Instr} {s t : State} (h : exec i s = .next t) :
    (∃ c, t = afterRefusal c s) ∨ ∃ u d, Effect i s u d ∧ t = u.deliver (okWord d) := by
  obtain ⟨c, hc⟩ | ⟨u, d, he, hu⟩ := exec_cases i s
  · exact .inl ⟨c, refusedState_eq c s ▸ Host.Outcome.next.inj (h.symm.trans hc)⟩
  · exact .inr ⟨u, d, he, Host.Outcome.next.inj (h.symm.trans hu)⟩

theorem Effect.deliver_out {i : Instr} {s t : State} {d : Byte} (h : Effect i s t d) :
    (t.deliver (okWord d)).out = s.out ++ [okWord d] := by
  obtain ⟨-, -, -, -, hout⟩ := h.keeps
  rw [State.deliver_out, hout]

/-- Two logs that extend the same one by one response each. -/
theorem response_inj {l : List Word} {v w : Word} (h : l ++ [v] = l ++ [w]) : v = w :=
  List.singleton_inj.mp (List.append_cancel_left h)

theorem status_eq_zero_of_okWord {status data d : Byte} (h : okWord d = status ++ data) : status = 0 := by
  have hstatus : opField (commandWord 0 d) = opField (commandWord status data) := congrArg opField h
  rw [opField_commandWord, opField_commandWord] at hstatus
  exact hstatus.symm

/-- Settles O31: a command with a status other than OK had no effect, so its state is that of a refusal. -/
theorem refusedCommandChangesOnlyItsErrBit : Obligations.RefusedCommandChangesOnlyItsErrBit := by
  unfold Obligations.RefusedCommandChangesOnlyItsErrBit
  intro i s t status data hexec hout hstatus
  obtain ⟨c, rfl⟩ | ⟨u, d, he, rfl⟩ := exec_eq_cases hexec
  · exact ⟨c, rfl, (response_inj hout).symm⟩
  · exact absurd (status_eq_zero_of_okWord (response_inj (he.deliver_out.symm.trans hout))) hstatus

/-! ### The order of the faults (60_exceptions.md rules R273, R276, R277) -/

/-- A CORE whose strap passed the check of rule R271 has a configured algorithm. -/
theorem exists_ofCode_of_rej {s : State} (hinv : s.rej = rejOfStrap s.sel) (hr : s.rej = false) :
    ∃ a, Alg.ofCode s.sel = some a := by
  have hsel : ¬ 10 ≤ s.sel.toNat := of_decide_eq_false (hinv.symm.trans hr)
  exact Option.isSome_iff_exists.mp ((ofCode_isSome_iff s.sel).mpr (Nat.lt_of_not_le hsel))

/-- No command has both an index and a message byte. -/
theorem not_badIndex_and_pastLimit (a : Option Alg) (i : Instr) (s : State) :
    ¬ (badIndex a i ∧ pastLimit a i s) := by
  rintro ⟨hb, hl⟩
  cases i with
  | rdd | rds | hrdm => exact hl
  | init | upd | fin | hkinit | hkupd | hkfin | hminit | hmupd | hmfin => exact hb

/-- A command that has its effect answers OK and leaves ERR. -/
theorem Effect.answers_ok {i : Instr} {s t : State} {d : Byte} (h : Effect i s t d) :
    ∃ (u : State) (data : Byte), exec i s = .next u ∧ u.err = s.err ∧ u.out = s.out ++ [0x00#8 ++ data] := by
  obtain ⟨-, -, herr, -, -⟩ := h.keeps
  exact ⟨_, d, exec_of_effect h, herr, h.deliver_out⟩

/-- Settles O33: on a configured CORE the guards are met in this order; RDS, the one command that a rejected CORE
carries out, has no guard but its index. -/
theorem firstApplicableFaultIsReported : Obligations.FirstApplicableFaultIsReported := by
  unfold Obligations.FirstApplicableFaultIsReported
  refine ⟨fun s w rest hin => ?decoder, fun i s => not_badIndex_and_pastLimit _ i s, fun i s hinv =>
    ⟨fun ⟨hr, hi⟩ => exec_of_unconfigured (configuredAlg_rejected hr) hi, fun halg => ?guards⟩⟩
  case decoder =>
    rw [step_command hin]
    exact ⟨runWord_reserved _, runWord_legal _⟩
  case guards =>
    cases hr : s.rej with
    | false =>
      obtain ⟨a, hsel⟩ := exists_ofCode_of_rej hinv hr
      have ha := configuredAlg_some hr hsel
      rw [hsel]
      refine ⟨exec_of_refusedInPhase ha, fun hp => ⟨exec_of_badIndex ha hp, fun hb => ⟨exec_of_pastLimit ha hp,
        fun hl => ?_⟩⟩⟩
      obtain ⟨t, d, he⟩ := exists_effect_of_guards ha hp hb hl
      exact he.answers_ok
    | true =>
      obtain ⟨n, rfl⟩ : ∃ n, i = .rds n := by simpa [hr] using halg
      refine ⟨nofun, fun _ => ⟨exec_rds_of_bad_index s, fun hb => ⟨False.elim, fun _ => ?_⟩⟩⟩
      obtain ⟨d, hd⟩ := exists_statusRegister s hb
      exact (Effect.rds n hd).answers_ok

/-! ### A rejected CORE (60_exceptions.md rule R271) -/

/-- No cell of the wrapper's table lists the status of ALG: rule R254 is about a configured CORE. -/
theorem not_cellRefuses_alg (h : HPhase) (i : Instr) : ¬ CellRefuses h i .alg := by
  rintro ⟨-, hmem⟩
  cases i with
  | init | upd | fin | rdd | rds =>
    rw [hphaseCell_engine h rfl] at hmem
    simp [causeCode] at hmem
  | hkinit | hkupd | hkfin | hminit | hmupd | hmfin | hrdm => cases h <;> simp [hphaseCell, causeCode] at hmem

theorem faultWord_ne_alg {c : Cause} (h : c ≠ .alg) : faultWord c ≠ faultWord .alg := by
  cases c with
  | alg => exact absurd rfl h
  | cmd | state | len | idx => decide

theorem exec_configured_out_ne_alg {i : Instr} {s t : State} {a : Alg} (ha : configuredAlg s = some a)
    (h : exec i s = .next t) : t.out ≠ s.out ++ [faultWord .alg] := by
  intro hout
  obtain ⟨c, hcell, hexec⟩ | ⟨u, d, he⟩ := exec_hphaseCell_cases (i := i) ha
  · obtain rfl := Host.Outcome.next.inj (h.symm.trans hexec)
    have hc : c ≠ .alg := fun hc => not_cellRefuses_alg s.hphase i (hc ▸ hcell)
    exact faultWord_ne_alg hc (response_inj hout)
  · obtain rfl := Host.Outcome.next.inj (h.symm.trans (exec_of_effect he))
    exact okWord_ne_faultWord d .alg (response_inj (he.deliver_out.symm.trans hout))

theorem exec_rej {i : Instr} {s t : State} (h : exec i s = .next t) : t.rej = s.rej := by
  obtain ⟨c, rfl⟩ | ⟨u, d, he, rfl⟩ := exec_eq_cases h
  · rfl
  · obtain ⟨-, hrej, -, -, -⟩ := he.keeps
    exact hrej

theorem rejOfStrap_iff (sel : BitVec 4) : rejOfStrap sel = true ↔ 10 ≤ sel.toNat := decide_eq_true_iff

theorem errOfStrap_alg_iff (sel : BitVec 4) : (errOfStrap sel).getLsbD 0 = true ↔ 10 ≤ sel.toNat := by
  rw [errOfStrap]
  split <;> simp [*]

/-- Settles O34: the reset alone writes REJ, and a CORE it has configured meets every guard but that of ALG. -/
theorem rejectedCoreRefusesEverythingButRds : Obligations.RejectedCoreRefusesEverythingButRds := by
  unfold Obligations.RejectedCoreRefusesEverythingButRds
  exact ⟨fun _ _ hr hi => exec_of_unconfigured (configuredAlg_rejected hr) hi,
    fun _ _ _ _ hr hsel h => exec_configured_out_ne_alg (configuredAlg_some hr hsel) h, fun _ _ _ => exec_rej,
    fun algSel => ⟨rejOfStrap_iff algSel, errOfStrap_alg_iff algSel⟩⟩

end Sys2Proof.Machine

/-! PROOFS. The statement of 70_reset_and_hazards.md: nothing runs without the HOST (rule R302). -/

namespace Sys2Proof.Machine

/-! ### Waiting (70_reset_and_hazards.md rule R302) -/

/-- With no event to fetch the step is `wait`. -/
theorem step_of_input_nil {s : State} (h : s.input = []) : step s = .next s := by
  rw [step, fetch_nil h]
  rfl

theorem resetWith_input (algSel : BitVec 4) : (State.resetWith algSel).input = [] := rfl

/-- Settles O7: a step without an event waits, and a reset leaves no event pending. -/
theorem nothingRunsWithoutTheHost : Obligations.NothingRunsWithoutTheHost := by
  unfold Obligations.NothingRunsWithoutTheHost
  exact ⟨fun _ => step_of_input_nil, fun algSel => step_of_input_nil (resetWith_input algSel)⟩

end Sys2Proof.Machine

/-! PROOFS. The statements of 30_encoding.md sections 1 to 4: the two round trips, the reserved words, and the step
as the decoded command. -/

namespace Sys2Proof

/-! ### The round trips (30_encoding.md rules R90, R95) -/

/-- The fields of an encoding are the row's operation code and the operand. -/
theorem decode_encode (i : Instr) : decode (encode i) = .ok i := by
  cases i with
  | init | upd | fin | rdd | rds | hkinit | hkupd | hkfin | hminit | hmupd | hmfin | hrdm =>
    exact decode_commandWord _ _

/-- Settles O2: `decode_encode`, row by row of the opcode map. -/
theorem decodeEncodeRoundTrip : Obligations.DecodeEncodeRoundTrip := by
  unfold Obligations.DecodeEncodeRoundTrip
  exact fun i _ => decode_encode i

/-- Settles O3: what decodes is the word built from its own two fields (`encode_of_decode`). -/
theorem encodeDecodeRoundTrip : Obligations.EncodeDecodeRoundTrip := by
  unfold Obligations.EncodeDecodeRoundTrip
  exact fun _ _ => encode_of_decode

/-- Settles O1, row by row of the opcode map. -/
theorem decodeReadsWrittenOutWords : Obligations.DecodeReadsWrittenOutWords := by
  unfold Obligations.DecodeReadsWrittenOutWords
  decide

/-! ### The reserved words (30_encoding.md rule R97) -/

theorem legalWord_eq_false_iff_decode (w : Word) : (∃ r, decode w = .error r) ↔ legalWord w = false := by
  refine ⟨fun ⟨_, hr⟩ => legalWord_of_decode_error hr, fun hw => ?_⟩
  cases hd : decode w with
  | error r => exact ⟨r, rfl⟩
  | ok i => exact absurd (legalWord_of_decode hd) (by simp [hw])

/-- The fields of a word as the quotient and the remainder by 256. -/
theorem fields_toNat (w : Word) : w.toNat / 256 = (opField w).toNat ∧ w.toNat % 256 = (argField w).toNat := by
  have hw := commandWord_toNat (opField w) (argField w)
  rw [commandWord_fields] at hw
  have harg := (argField w).isLt
  omega

theorem toNat_ne_zero_iff (b : Byte) : b.toNat ≠ 0 ↔ b ≠ 0 := not_congr (BitVec.toNat_eq_nat.trans (by simp))

/-- The twelve operation codes are the six of format N and the six of format A. -/
theorem mem_opcodes_iff (n : Nat) :
    n ∈ [0x01, 0x02, 0x03, 0x04, 0x05, 0x11, 0x12, 0x13, 0x21, 0x22, 0x23, 0x24] ↔
      n ∈ [0x01, 0x03, 0x11, 0x13, 0x21, 0x23] ∨ n ∈ [0x02, 0x04, 0x05, 0x12, 0x22, 0x24] := by
  have hperm : [0x01, 0x02, 0x03, 0x04, 0x05, 0x11, 0x12, 0x13, 0x21, 0x22, 0x23, 0x24].Perm
      ([0x01, 0x03, 0x11, 0x13, 0x21, 0x23] ++ [0x02, 0x04, 0x05, 0x12, 0x22, 0x24]) := by decide
  exact hperm.mem_iff.trans List.mem_append

/-- A word is reserved by its operation code, or by an operand where the format has none. -/
theorem legalWord_commandWord_eq_false_iff (op arg : Byte) :
    legalWord (commandWord op arg) = false ↔
      op.toNat ∉ [0x01, 0x02, 0x03, 0x04, 0x05, 0x11, 0x12, 0x13, 0x21, 0x22, 0x23, 0x24] ∨
        (op.toNat ∈ [0x01, 0x03, 0x11, 0x13, 0x21, 0x23] ∧ arg.toNat ≠ 0) := by
  have hop := mem_opcodes_iff op.toNat
  rw [toNat_ne_zero_iff, hop]
  by_cases hN : op.toNat ∈ [0x01, 0x03, 0x11, 0x13, 0x21, 0x23]
  · rw [legalWord_formatN op arg hN, decide_eq_false_iff_not]
    tauto
  · by_cases hA : op.toNat ∈ [0x02, 0x04, 0x05, 0x12, 0x22, 0x24]
    · rw [legalWord_formatA op arg hA]
      tauto
    · rw [legalWord_otherOp op arg (by tauto)]
      tauto

/-- Settles O4: the decoder rejects what no row matches, and the rows are said again by the two fields. -/
theorem reservedWordsAreThoseOutsideTheMap : Obligations.ReservedWordsAreThoseOutsideTheMap := by
  unfold Obligations.ReservedWordsAreThoseOutsideTheMap
  refine ⟨fun w => ⟨legalWord_eq_false_iff_decode w, ?fields⟩, by decide, by decide⟩
  case fields =>
    obtain ⟨hop, harg⟩ := fields_toNat w
    rw [hop, harg, ← legalWord_commandWord_eq_false_iff, commandWord_fields]

end Sys2Proof

namespace Sys2Proof.Machine

/-! ### The step as the decoded command (30_encoding.md section 1) -/

theorem step_command_of_decode {s : State} {w : Word} {rest : List HostEvent} {i : Instr}
    (hin : s.input = .command w :: rest) (hd : decode w = .ok i) : step s = exec i (s.setInput rest) := by
  rw [step_command hin, runWord, hd]

/-- Settles O5: the step takes the event and runs what its word decodes to. -/
theorem stepRunsTheDecodedCommand : Obligations.StepRunsTheDecodedCommand := by
  unfold Obligations.StepRunsTheDecodedCommand
  refine ⟨fun s w rest i hin hd _ => step_command_of_decode hin hd, fun s w i hw hd => ?withFetchWord⟩
  case withFetchWord =>
    have hword : tableWord 16 w = BitVec.ofNat 16 w := by rw [tableWord, Nat.mod_eq_of_lt hw]
    exact step_command_of_decode (s := s.withFetchWord 16 w) (rest := s.input) rfl (hword ▸ hd)

end Sys2Proof.Machine

/-! PROOFS. The invariant of the CORE: reset establishes it and every step keeps it (10_state.md sections 3, 4, 7 and
10, 46_hmac.md section 4); and what a reset loads (70_reset_and_hazards.md rules R300, R306). -/

namespace Sys2Proof.Machine

/-! ### The invariant of a configured and of a rejected CORE -/

/-- With an algorithm configured the invariant is the shape of the engines and of the wrapper. -/
theorem stateInv_of_configured {s : State} {a : Alg} (ha : configuredAlg s = some a) (hrej : s.rej = rejOfStrap s.sel)
    (heng : EngineWf a s.eng) (hinner : EngineWf a s.inner) (houter : EngineWf a s.outer) (hw : WrapperWf a s) :
    StateInv s := by
  obtain ⟨hr, -⟩ := configuredAlg_some_iff.mp ha
  have halg {b : Alg} (hb : configuredAlg s = some b) : a = b := Option.some.inj (ha.symm.trans hb)
  exact ⟨hrej, by simp [hr], by simp [hr], fun _ hb => halg hb ▸ heng, fun _ hb => halg hb ▸ hinner,
    fun _ hb => halg hb ▸ houter, fun _ hb => halg hb ▸ hw⟩

/-- The wrapper's part of the invariant reads the wrapper's registers only. -/
theorem WrapperWf.congr {a : Alg} {s t : State} (h : WrapperWf a s) (hinner : t.inner = s.inner)
    (houter : t.outer = s.outer) (hphase : t.hphase = s.hphase) (hkbuf : t.kbuf = s.kbuf) (hklen : t.klen = s.klen) :
    WrapperWf a t := by
  constructor <;> simp only [hinner, houter, hphase, hkbuf, hklen]
  exacts [h.kbuf_length, h.klen_le, h.keying_inner, h.keying_klen, h.keying_zeros, h.msg_inner, h.msg_bitlen,
    h.done_inner, h.done_outer]

/-- The invariant reads neither the HOST's side nor any bit of ERR but bit 0, which may only be set. -/
theorem StateInv.setHost {s : State} (h : StateInv s) (e : BitVec 5) (i : List HostEvent) (o : List Word)
    (he : s.err.getLsbD 0 = true → e.getLsbD 0 = true) : StateInv { s with err := e, input := i, out := o } :=
  ⟨h.rej_iff, fun hr => he (h.rej_err hr), h.rej_phase, h.eng_wf, h.inner_wf, h.outer_wf,
    fun a ha => (h.wrapper_wf a ha).congr rfl rfl rfl rfl rfl⟩

theorem StateInv.setInput {s : State} (h : StateInv s) (i : List HostEvent) : StateInv (s.setInput i) :=
  h.setHost s.err i s.out id

theorem StateInv.deliver {s : State} (h : StateInv s) (w : Word) : StateInv (s.deliver w) :=
  h.setHost s.err s.input (s.out ++ [w]) id

/-- A refused command adds a bit to ERR (60_exceptions.md rule R274). -/
theorem StateInv.refused {s : State} (h : StateInv s) (c : Cause) : StateInv (refusedState c s) :=
  h.setHost (setErrBit s.err c) s.input _ fun h0 => by rw [setErrBit, BitVec.getLsbD_or, h0, Bool.true_or]

/-! ### Reset (70_reset_and_hazards.md rule R300) -/

theorem engineOfStrap_eq {sel : BitVec 4} {a : Alg} (h : Alg.ofCode sel = some a) :
    engineOfStrap sel = engineAtReset a := by
  rw [engineOfStrap, h]

theorem kbufOfStrap_eq {sel : BitVec 4} {a : Alg} (h : Alg.ofCode sel = some a) : kbufOfStrap sel = rep 0 a.B := by
  rw [kbufOfStrap, h]

/-- In H_NOKEY nothing is asked of the wrapper but its sizes. -/
theorem wrapperWf_of_noKey {a : Alg} {s : State} (hp : s.hphase = .noKey) (hk : s.kbuf.length = a.B)
    (hl : s.klen ≤ a.B + 1) : WrapperWf a s := by
  constructor <;> simp [hp, hk, hl]

theorem resetWith_inv (algSel : BitVec 4) : StateInv (State.resetWith algSel) := by
  cases ha : configuredAlg (State.resetWith algSel) with
  | some a =>
    obtain ⟨-, hsel : Alg.ofCode algSel = some a⟩ := configuredAlg_some_iff.mp ha
    have hwf : EngineWf a (engineOfStrap algSel) := engineOfStrap_eq hsel ▸ engineAtReset_wf a
    have hkbuf : (kbufOfStrap algSel).length = a.B := by rw [kbufOfStrap_eq hsel, rep_length]
    exact stateInv_of_configured ha rfl hwf hwf hwf (wrapperWf_of_noKey rfl hkbuf (Nat.zero_le _))
  | none =>
    exact ⟨rfl, fun hr => (errOfStrap_alg_iff algSel).mpr ((rejOfStrap_iff algSel).mp hr),
      fun _ => ⟨engineOfStrap_phase algSel, engineOfStrap_phase algSel, engineOfStrap_phase algSel, rfl⟩,
      by simp [ha], by simp [ha], by simp [ha], by simp [ha]⟩

theorem resetEvent_inv (n : BitVec 4) (s : State) : StateInv (resetEvent n s) :=
  (resetWith_inv n).setHost (errOfStrap n) s.input s.out id

/-- Settles O40: `resetWith_inv`, by whether the strap names an algorithm. -/
theorem resetMeetsTheInvariant : Obligations.ResetMeetsTheInvariant := by
  unfold Obligations.ResetMeetsTheInvariant
  exact ⟨resetWith_inv, resetWith_inv Config.resetStrap⟩

/-! ### The key buffer while a key is received (46_hmac.md rules R241, R242) -/

/-- One more key byte in a buffer of B bytes that is zero from KLEN on: it is zero from the new KLEN on. -/
theorem storeKeyByte_drop {a : Alg} {kbuf : List Byte} {klen : Nat} (b : Byte) (hk : kbuf.length = a.B)
    (hz : kbuf.drop klen = rep 0x00 (a.B - klen)) :
    (storeKeyByte a kbuf klen b).drop (countKeyByte a klen) = rep 0x00 (a.B - countKeyByte a klen) := by
  by_cases hroom : klen < a.B
  · have hnext : (kbuf.drop klen).drop 1 = rep 0x00 (a.B - (klen + 1)) := by
      rw [hz, rep, List.drop_replicate, Nat.sub_sub]
      rfl
    rw [storeKeyByte, if_pos hroom, countKeyByte, if_pos hroom.le, List.drop_set_of_lt (Nat.lt_succ_self klen), ← hnext,
      List.drop_drop]
  · have hcount : a.B ≤ countKeyByte a klen := by
      unfold countKeyByte
      split <;> omega
    rw [List.drop_of_length_le (by simpa [hk] using hcount), Nat.sub_eq_zero_of_le hcount]
    rfl

/-- The count of key bytes of a message of one more byte, both cut off at B + 1. -/
theorem countKeyByte_min (a : Alg) (n : Nat) : countKeyByte a (min n (a.B + 1)) = min (n + 1) (a.B + 1) := by
  rw [countKeyByte_eq a _ (Nat.min_le_right _ _)]
  omega

/-! ### Every step keeps the invariant -/

/-- Each effect keeps the wrapper's part of the invariant: rule by rule of 46_hmac.md section 4. -/
theorem Effect.wrapperWf {i : Instr} {s t : State} {d : Byte} {a : Alg} (h : Effect i s t d)
    (ha : configuredAlg s = some a) (hinner : EngineWf a s.inner) (hw : WrapperWf a s) : WrapperWf a t := by
  have halg {b : Alg} (hb : configuredAlg s = some b) : b = a := Option.some.inj (hb.symm.trans ha)
  cases h with
  | init | upd | fin | rdd | rds | hrdm => exact hw.congr rfl rfl rfl rfl rfl
  | hkinit hb =>
    obtain rfl := halg hb
    constructor <;> simp
  | hkupd b hb hp _ =>
    obtain rfl := halg hb
    have hklen := hw.keying_klen hp
    constructor <;> simp [hp, hw.kbuf_length, hw.keying_inner hp]
    case klen_le => rw [hklen, countKeyByte_min]; omega
    case keying_klen => rw [hklen, countKeyByte_min]; omega
    case keying_zeros => exact storeKeyByte_drop b hw.kbuf_length (hw.keying_zeros hp)
  | hkfinShort hb =>
    obtain rfl := halg hb
    constructor <;> simp [hw.kbuf_length, hw.klen_le]
  | hkfinLong hb =>
    obtain rfl := halg hb
    constructor <;> simp [hw.klen_le, digestKey_length, (engFinalize_wf _ _ hinner).digest_length]
  | hminit hb =>
    obtain rfl := halg hb
    constructor <;> simp [hw.kbuf_length, hw.klen_le, absorbPad_phase, absorbPad_bitlen]
  | hmupd b hb hp =>
    obtain rfl := halg hb
    have hbits := hw.msg_bitlen hp
    constructor <;> simp [hp, hw.kbuf_length, hw.klen_le, hw.msg_inner hp]
    omega
  | hmfin hb =>
    obtain rfl := halg hb
    constructor <;> simp [hw.kbuf_length, hw.klen_le]

/-- Each effect keeps the shapes of the three engines. -/
theorem Effect.engineWf {i : Instr} {s t : State} {d : Byte} {a : Alg} (h : Effect i s t d)
    (ha : configuredAlg s = some a) (heng : EngineWf a s.eng) (hinner : EngineWf a s.inner)
    (houter : EngineWf a s.outer) (hkbuf : s.kbuf.length = a.B) :
    EngineWf a t.eng ∧ EngineWf a t.inner ∧ EngineWf a t.outer := by
  have halg {b : Alg} (hb : configuredAlg s = some b) : b = a := Option.some.inj (hb.symm.trans ha)
  cases h with
  | rdd | rds | hrdm | hkfinShort => exact ⟨heng, hinner, houter⟩
  | init hb => obtain rfl := halg hb; exact ⟨engInit_wf _ _ heng, hinner, houter⟩
  | upd b hb _ hl => obtain rfl := halg hb; exact ⟨engAbsorb_wf _ _ b heng hl, hinner, houter⟩
  | fin hb => obtain rfl := halg hb; exact ⟨engFinalize_wf _ _ heng, hinner, houter⟩
  | hkinit hb => obtain rfl := halg hb; exact ⟨heng, engInit_wf _ _ hinner, houter⟩
  | hkupd b hb _ hl | hmupd b hb _ hl => obtain rfl := halg hb; exact ⟨heng, engAbsorb_wf _ _ b hinner hl, houter⟩
  | hkfinLong hb => obtain rfl := halg hb; exact ⟨heng, engFinalize_wf _ _ hinner, houter⟩
  | hminit hb => obtain rfl := halg hb; exact ⟨heng, absorbPad_wf _ _ _ _ hinner, houter⟩
  | hmfin hb =>
    obtain rfl := halg hb
    exact ⟨heng, engFinalize_wf _ _ hinner, outerDigest_wf _ _ _ _ houter hkbuf⟩

/-- On a rejected CORE only RDS has an effect, and it writes nothing. -/
theorem Effect.eq_of_unconfigured {i : Instr} {s t : State} {d : Byte} (h : Effect i s t d)
    (hc : configuredAlg s = none) : t = s := by
  cases h with
  | rds => rfl
  | init ha | upd _ ha | fin ha | rdd _ ha | hkinit ha | hkupd _ ha | hkfinShort ha | hkfinLong ha | hminit ha
  | hmupd _ ha | hmfin ha | hrdm _ ha => exact absurd ha (by simp [hc])

theorem Effect.inv {i : Instr} {s t : State} {d : Byte} (h : Effect i s t d) (hs : StateInv s) : StateInv t := by
  cases ha : configuredAlg s with
  | none => exact h.eq_of_unconfigured ha ▸ hs
  | some a =>
    obtain ⟨hsel, hrej, -, -, -⟩ := h.keeps
    have hw := hs.wrapper_wf a ha
    obtain ⟨heng, hinner, houter⟩ :=
      h.engineWf ha (hs.eng_wf a ha) (hs.inner_wf a ha) (hs.outer_wf a ha) hw.kbuf_length
    exact stateInv_of_configured ((configuredAlg_congr hsel hrej).trans ha) (by rw [hsel, hrej]; exact hs.rej_iff) heng
      hinner houter (h.wrapperWf ha (hs.inner_wf a ha) hw)

theorem step_inv {s t : State} (hs : StateInv s) (h : step s = .next t) : StateInv t := by
  obtain ⟨-, hw⟩ | ⟨w, rest, -, ⟨c, hc⟩ | ⟨i, u, d, -, he, hu⟩⟩ | ⟨n, rest, -, hr⟩ | ⟨w, n, rest, -, hr⟩ := step_cases s
  · exact Host.Outcome.next.inj (hw.symm.trans h) ▸ hs
  · exact Host.Outcome.next.inj (hc.symm.trans h) ▸ (hs.setInput rest).refused c
  · exact Host.Outcome.next.inj (hu.symm.trans h) ▸ (he.inv (hs.setInput rest)).deliver _
  · exact Host.Outcome.next.inj (hr.symm.trans h) ▸ resetEvent_inv n _
  · exact Host.Outcome.next.inj (hr.symm.trans h) ▸ resetEvent_inv n _

/-- Settles O39: by the ways a step goes; an effect keeps the shapes (`Effect.engineWf`) and the meaning of HPHASE
(`Effect.wrapperWf`). -/
theorem stepKeepsTheInvariant : Obligations.StepKeepsTheInvariant := by
  unfold Obligations.StepKeepsTheInvariant
  exact fun _ _ => step_inv

/-! ### What a reset loads (70_reset_and_hazards.md rules R300, R306) -/

theorem step_reset {s : State} {n : BitVec 4} {rest : List HostEvent} (h : s.input = .reset n :: rest) :
    step s = .next (resetEvent n (s.setInput rest)) := by
  rw [step, fetch_cons h]
  rfl

theorem step_aborted {s : State} {w : Word} {n : BitVec 4} {rest : List HostEvent}
    (h : s.input = .aborted w n :: rest) : step s = .next (resetEvent n (s.setInput rest)) := by
  rw [step, fetch_cons h]
  rfl

/-- A reset keeps of a state only the HOST's side. -/
theorem resetEvent_congr (n : BitVec 4) {s t : State} (hin : s.input = t.input) (hout : s.out = t.out) :
    resetEvent n s = resetEvent n t := by
  rw [resetEvent, resetEvent, hin, hout]

theorem exec_sel {i : Instr} {s t : State} (h : exec i s = .next t) : t.sel = s.sel := by
  obtain ⟨c, rfl⟩ | ⟨u, d, he, rfl⟩ := exec_eq_cases h
  · rfl
  · obtain ⟨hsel, -, -, -, -⟩ := he.keeps
    exact hsel

/-- Settles O8: the registers of `State.resetWith`; no command writes ALGR. -/
theorem resetLoadsTheDefinedRegisters : Obligations.ResetLoadsTheDefinedRegisters := by
  unfold Obligations.ResetLoadsTheDefinedRegisters
  refine ⟨fun s algSel rest hin => ?_, fun i s t h => ⟨exec_sel h, exec_rej h⟩⟩
  exact ⟨_, step_reset hin, rfl, rfl, rfl, engineOfStrap_phase algSel, engineOfStrap_phase algSel,
    engineOfStrap_phase algSel, rfl⟩

/-- Settles O9: both steps are the reset event on states with the same HOST's side. -/
theorem resetDuringACommandLeavesOnlyTheReset : Obligations.ResetDuringACommandLeavesOnlyTheReset := by
  unfold Obligations.ResetDuringACommandLeavesOnlyTheReset
  intro s u w algSel rest hs hu hout
  refine ⟨_, step_aborted hs, ?_, rfl, rfl⟩
  rw [step_reset hu, resetEvent_congr algSel (s := u.setInput rest) (t := s.setInput rest) rfl hout]

end Sys2Proof.Machine

/-! PROOFS. What the HOST can see (10_state.md section 10, rule R48): states that look alike answer alike, so no
value that a reset leaves unspecified reaches the HOST (70_reset_and_hazards.md rule R301). -/

namespace Sys2Proof.Machine

/-! ### Two states in which a command meets the same guards -/

/-- What the guards of the command `i` read is the same in `s` and `t` (60_exceptions.md rules R273, R275 to R277);
BITLEN is read only once the phase is right. -/
structure SameGuards (i : Instr) (s t : State) : Prop where
  alg : configuredAlg s = configuredAlg t
  phase : refusedInPhase i s.eng.phase s.hphase = refusedInPhase i t.eng.phase t.hphase
  limit : ∀ a, refusedInPhase i s.eng.phase s.hphase = false → (pastLimit (some a) i s ↔ pastLimit (some a) i t)

/-- `MeetsGuard a i s c`: on a CORE configured for `a` the guard of the cause `c` is the first that `i` meets in `s`.
-/
inductive MeetsGuard (a : Alg) (i : Instr) (s : State) : Cause → Prop
  | state (hp : refusedInPhase i s.eng.phase s.hphase = true) : MeetsGuard a i s .state
  | idx (hp : refusedInPhase i s.eng.phase s.hphase = false) (hb : badIndex (some a) i) : MeetsGuard a i s .idx
  | len (hp : refusedInPhase i s.eng.phase s.hphase = false) (hl : pastLimit (some a) i s) : MeetsGuard a i s .len

theorem MeetsGuard.exec_eq {a : Alg} {i : Instr} {s : State} {c : Cause} (h : MeetsGuard a i s c)
    (ha : configuredAlg s = some a) : exec i s = .next (afterRefusal c s) := by
  cases h with
  | state hp => exact exec_of_refusedInPhase ha hp
  | idx hp hb => exact exec_of_badIndex ha hp hb
  | len hp hl => exact exec_of_pastLimit ha hp hl

/-- A configured CORE carries out every command that meets no guard. -/
theorem meetsGuard_or_effect (i : Instr) {s : State} {a : Alg} (ha : configuredAlg s = some a) :
    (∃ c, MeetsGuard a i s c) ∨ ∃ t d, Effect i s t d := by
  cases hp : refusedInPhase i s.eng.phase s.hphase with
  | true => exact .inl ⟨.state, .state hp⟩
  | false =>
    by_cases hb : badIndex (some a) i
    · exact .inl ⟨.idx, .idx hp hb⟩
    · by_cases hl : pastLimit (some a) i s
      · exact .inl ⟨.len, .len hp hl⟩
      · exact .inr (exists_effect_of_guards ha hp hb hl)

theorem SameGuards.meetsGuard {a : Alg} {i : Instr} {s t : State} {c : Cause} (h : SameGuards i s t)
    (hc : MeetsGuard a i s c) : MeetsGuard a i t c := by
  cases hc with
  | state hp => exact .state (h.phase.symm.trans hp)
  | idx hp hb => exact .idx (h.phase.symm.trans hp) hb
  | len hp hl => exact .len (h.phase.symm.trans hp) ((h.limit a hp).mp hl)

/-- The first guard that a command meets is the same in both states, or it meets none. -/
theorem SameGuards.cases {i : Instr} {s t : State} (h : SameGuards i s t) :
    (∃ c, exec i s = .next (afterRefusal c s) ∧ exec i t = .next (afterRefusal c t)) ∨
      ∃ s' d, Effect i s s' d := by
  cases ha : configuredAlg s with
  | some a =>
    obtain ⟨c, hc⟩ | heffect := meetsGuard_or_effect i ha
    · exact .inl ⟨c, hc.exec_eq ha, (h.meetsGuard hc).exec_eq (h.alg.symm.trans ha)⟩
    · exact .inr heffect
  | none =>
    by_cases hi : ∀ n, i ≠ .rds n
    · exact .inl ⟨.alg, exec_of_unconfigured ha hi, exec_of_unconfigured (h.alg.symm.trans ha) hi⟩
    · obtain ⟨n, rfl⟩ : ∃ n, i = .rds n := by simpa using hi
      by_cases hn : 6 ≤ n.toNat
      · exact .inl ⟨.idx, exec_rds_of_bad_index s hn, exec_rds_of_bad_index t hn⟩
      · obtain ⟨d, hd⟩ := exists_statusRegister s hn
        exact .inr ⟨s, d, .rds n hd⟩

/-! ### What an absorption and a finalization read of an engine (10_state.md rules R25, R48) -/

theorem RegsAgree.symm {e f : Engine} (h : RegsAgree e f) : RegsAgree f e :=
  ⟨h.h32_eq.symm, h.h64_eq.symm, h.x_eq.symm, h.c_eq.symm⟩

theorem compressBlocks_agree (a : Alg) {e f : Engine} (s : List Byte) (h : RegsAgree e f) :
    RegsAgree (compressBlocks a e s) (compressBlocks a f s) := compressMany_agree a _ e f h

theorem compressChecksum_agree (a : Alg) {e f : Engine} (h : RegsAgree e f) :
    RegsAgree (compressChecksum a e) (compressChecksum a f) := by
  cases a
  case md2 =>
    rw [compressChecksum, compressChecksum, h.c_eq]
    exact compress_agree .md2 e f _ h
  all_goals exact h

/-- The digest is a function of the working registers, the counters and the valid bytes of BUF. -/
theorem engFinalize_digest_alike (a : Alg) {e f : Engine} (h : AbsorbsAlike e f) :
    (engFinalize a e).digest = (engFinalize a f).digest := by
  rw [engFinalize_digest, engFinalize_digest, compressTail, compressTail, h.buf_eq, h.bitlen_eq]
  exact extract_agree a _ _ (compressChecksum_agree a (compressBlocks_agree a _ h.regs))

/-- One more byte keeps two engines alike, as long as BUF has room for it. -/
theorem engAbsorb_alike {a : Alg} {e f : Engine} (b : Byte) (he : EngineWf a e) (hf : EngineWf a f)
    (h : AbsorbsAlike e f) : AbsorbsAlike (engAbsorb a e b) (engAbsorb a f b) := by
  have hlen : (engAbsorb a e b).buflen = (engAbsorb a f b).buflen := by
    rw [engAbsorb_buflen, engAbsorb_buflen, h.buflen_eq]
  have hstored : (engAbsorb a e b).buf.take (e.buflen + 1) = (engAbsorb a f b).buf.take (f.buflen + 1) := by
    rw [engAbsorb_buf, engAbsorb_buf, take_succ_set _ _ _ (he.buf_length ▸ he.buflen_lt),
      take_succ_set _ _ _ (hf.buf_length ▸ hf.buflen_lt), h.buf_eq]
  have hregs : RegsAgree (engAbsorb a e b) (engAbsorb a f b) := by
    have hre := engAbsorb_regs a e b
    have hrf := engAbsorb_regs a f b
    by_cases hfull : e.buflen + 1 = a.B
    · have hfull' : f.buflen + 1 = a.B := h.buflen_eq ▸ hfull
      rw [if_pos hfull, ← hfull, hstored] at hre
      rw [if_pos hfull', ← hfull'] at hrf
      have hstore : RegsAgree (storeByte e b) (storeByte f b) := ⟨h.h32_eq, h.h64_eq, h.x_eq, h.c_eq⟩
      exact (hre.trans (compress_agree a _ _ _ hstore)).trans hrf.symm
    · rw [if_neg hfull] at hre
      rw [if_neg (h.buflen_eq ▸ hfull)] at hrf
      exact (hre.trans h.regs).trans hrf.symm
  refine ⟨hregs.h32_eq, hregs.h64_eq, hregs.x_eq, hregs.c_eq, hlen, by simp [h.bitlen_eq], ?_⟩
  rw [engAbsorb_buflen a e b, engAbsorb_buflen a f b, ← h.buflen_eq]
  rw [← h.buflen_eq] at hstored
  split
  · simp
  · exact hstored

theorem eq_of_length_zero {α : Type} {l m : List α} {n : Nat} (hl : l.length = n) (hm : m.length = n) (h0 : n = 0) :
    l = m :=
  (List.eq_nil_of_length_eq_zero (hl.trans h0)).trans (List.eq_nil_of_length_eq_zero (hm.trans h0)).symm

/-- eng_init leaves nothing of the working registers: it loads those of the algorithm, the others are empty. -/
theorem engInit_agree {a : Alg} {e f : Engine} (he : RegsSized a e) (hf : RegsSized a f) :
    RegsAgree (engInit a e) (engInit a f) := by
  have h32 (h0 : numH32 a = 0) : e.h32 = f.h32 := eq_of_length_zero he.h32_length hf.h32_length h0
  have h64 (h0 : numH64 a = 0) : e.h64 = f.h64 := eq_of_length_zero he.h64_length hf.h64_length h0
  have hx (h0 : numX a = 0) : e.x = f.x := eq_of_length_zero he.x_length hf.x_length h0
  have hc (h0 : numC a = 0) : e.c = f.c := eq_of_length_zero he.c_length hf.c_length h0
  cases a with
  | md2 => exact ⟨h32 rfl, h64 rfl, rfl, rfl⟩
  | md4 | md5 | sha1 | sha2_224 | sha2_256 => exact ⟨rfl, h64 rfl, hx rfl, hc rfl⟩
  | sha2_384 | sha2_512 | sha2_512_224 | sha2_512_256 => exact ⟨h32 rfl, rfl, hx rfl, hc rfl⟩

/-- A byte sequence absorbed after eng_init leaves engines alike, whatever they held before. -/
theorem absorbBytes_engInit_alike {a : Alg} {e f : Engine} (he : RegsSized a e) (hf : RegsSized a f)
    (msg : List Byte) : AbsorbsAlike (absorbBytes a (engInit a e) msg) (absorbBytes a (engInit a f) msg) := by
  have hE := absorbBytes_holds a e msg
  have hF := absorbBytes_holds a f msg
  obtain ⟨-, -, hbe⟩ := absorbBytes_keeps a msg (engInit a e)
  obtain ⟨-, -, hbf⟩ := absorbBytes_keeps a msg (engInit a f)
  have hregs := (hE.regs.trans (compressBlocks_agree a msg (engInit_agree he hf))).trans hF.regs.symm
  exact ⟨hregs.h32_eq, hregs.h64_eq, hregs.x_eq, hregs.c_eq, hE.buflen_eq.trans hF.buflen_eq.symm,
    by rw [hbe, hbf]; rfl, hE.buf_take.trans hF.buf_take.symm⟩

theorem engInit_alike {a : Alg} {e f : Engine} (he : RegsSized a e) (hf : RegsSized a f) :
    AbsorbsAlike (engInit a e) (engInit a f) := absorbBytes_engInit_alike he hf []

/-- The outer digest depends on the key and the inner digest alone. -/
theorem outerDigest_alike {a : Alg} {e f inner inner' : Engine} (he : RegsSized a e) (hf : RegsSized a f)
    (kbuf : List Byte) (hin : inner.digest = inner'.digest) :
    (outerDigest a e inner kbuf).digest = (outerDigest a f inner' kbuf).digest := by
  rw [outerDigest, outerDigest, hin, absorbPad, absorbPad, ← absorbBytes_append, ← absorbBytes_append]
  exact engFinalize_digest_alike a (absorbBytes_engInit_alike he hf _)

/-! ### States that look alike -/

theorem LooksAlike.refl (s : State) : LooksAlike s s := by
  have hself (e : Engine) : AbsorbsAlike e e := ⟨rfl, rfl, rfl, rfl, rfl, rfl, rfl⟩
  exact ⟨rfl, rfl, rfl, rfl, rfl, rfl, rfl, fun _ => hself _, fun _ => rfl, fun _ => hself _, fun _ => ⟨rfl, rfl⟩,
    fun _ => rfl, fun _ => hself _, fun _ => rfl⟩

theorem LooksAlike.configuredAlg_eq {s t : State} (h : LooksAlike s t) : configuredAlg s = configuredAlg t :=
  configuredAlg_congr h.sel_eq h.rej_eq

theorem LooksAlike.setInput {s t : State} (h : LooksAlike s t) (i : List HostEvent) :
    LooksAlike (s.setInput i) (t.setInput i) := { h with input_eq := rfl }

theorem LooksAlike.deliver {s t : State} (h : LooksAlike s t) (w : Word) : LooksAlike (s.deliver w) (t.deliver w) :=
  { h with out_eq := congrArg (· ++ [w]) h.out_eq }

theorem LooksAlike.afterRefusal {s t : State} (h : LooksAlike s t) (c : Cause) :
    LooksAlike (afterRefusal c s) (afterRefusal c t) :=
  { h with err_eq := congrArg (· ||| faultMask c) h.err_eq, out_eq := congrArg (· ++ [faultWord c]) h.out_eq }

/-- ENG replaced on both sides, by engines that agree where a command could read them. -/
theorem LooksAlike.setEng {s t : State} (h : LooksAlike s t) {e f : Engine} (hp : e.phase = f.phase)
    (hready : e.phase = .ready → AbsorbsAlike e f) (hfinal : e.phase = .final → e.digest = f.digest) :
    LooksAlike (s.setEng e) (t.setEng f) :=
  { h with eng_phase := hp, eng_ready := hready, eng_final := hfinal }

/-- RDS reads registers that agree. -/
theorem LooksAlike.statusRegister_eq {s t : State} (h : LooksAlike s t) (n : Byte) :
    statusRegister s n = statusRegister t n := by
  simp only [statusRegister, stAlg, stPhase, stHphase, stErr, stBlksz, stDiglen, h.sel_eq, h.rej_eq, h.eng_phase,
    h.hphase_eq, h.err_eq, h.configuredAlg_eq]

theorem digestByte_congr (a : Alg) {e f : Engine} (h : e.digest = f.digest) (i : Byte) :
    digestByte a e i = digestByte a f i := by rw [digestByte, digestByte, h]

theorem lenOk_congr (a : Alg) {e f : Engine} (h : AbsorbsAlike e f) : lenOk a e = lenOk a f := by
  rw [lenOk, lenOk, h.bitlen_eq]

theorem LooksAlike.sameGuards {s t : State} (h : LooksAlike s t) (i : Instr) : SameGuards i s t := by
  refine ⟨h.configuredAlg_eq, by rw [h.eng_phase, h.hphase_eq], fun a hp => ?limit⟩
  case limit =>
    cases i with
    | upd =>
      have hbits := (h.eng_ready (eq_of_decide_ne hp)).bitlen_eq
      simp only [pastLimit, hbits]
    | hkupd =>
      have hbits := (h.keying_inner (eq_of_decide_ne hp)).bitlen_eq
      simp only [pastLimit, hbits]
    | hmupd =>
      have hbits := (h.msg_inner (eq_of_decide_ne hp)).bitlen_eq
      simp only [pastLimit, hbits]
    | init | fin | rdd | rds | hkinit | hkfin | hminit | hmfin | hrdm => exact Iff.rfl

/-- A command that has its effect in one of two states that look alike has it in the other, with the same answer, and
they go on looking alike. -/
theorem Effect.looksAlike {i : Instr} {s s' t : State} {d : Byte} (he : Effect i s s' d) (h : LooksAlike s t)
    (hs : StateInv s) (ht : StateInv t) : ∃ t', Effect i t t' d ∧ LooksAlike s' t' := by
  have halg {a : Alg} (ha : configuredAlg s = some a) : configuredAlg t = some a := h.configuredAlg_eq.symm.trans ha
  have hphase {p : HPhase} (hp : s.hphase = p) : t.hphase = p := h.hphase_eq.symm.trans hp
  cases he with
  | init ha =>
    have hinit := engInit_alike (hs.eng_wf _ ha).sized (ht.eng_wf _ (halg ha)).sized
    exact ⟨_, .init (halg ha), h.setEng rfl (fun _ => hinit) nofun⟩
  | upd b ha hp hl =>
    have halike := h.eng_ready hp
    have hp' := h.eng_phase.symm.trans hp
    have habs := engAbsorb_alike b (hs.eng_wf _ ha) (ht.eng_wf _ (halg ha)) halike
    exact ⟨_, .upd b (halg ha) hp' (lenOk_congr _ halike ▸ hl),
      h.setEng (by simp [h.eng_phase]) (fun _ => habs) (by simp [hp])⟩
  | @fin _ a ha hp =>
    have hdigest := engFinalize_digest_alike a (h.eng_ready hp)
    exact ⟨_, .fin (halg ha) (h.eng_phase.symm.trans hp), h.setEng rfl nofun fun _ => hdigest⟩
  | rdd k ha hp hd =>
    exact ⟨t, .rdd k (halg ha) (h.eng_phase.symm.trans hp) (digestByte_congr _ (h.eng_final hp) k ▸ hd), h⟩
  | rds n hd => exact ⟨t, .rds n (h.statusRegister_eq n ▸ hd), h⟩
  | hkinit ha =>
    have hinit := engInit_alike (hs.inner_wf _ ha).sized (ht.inner_wf _ (halg ha)).sized
    exact ⟨_, .hkinit (halg ha), { h with
      hphase_eq := rfl, keying_inner := fun _ => hinit, keying_key := fun _ => ⟨rfl, rfl⟩, loaded_key := nofun
      msg_inner := nofun, done_mac := nofun }⟩
  | hkupd b ha hp hl =>
    have halike := h.keying_inner hp
    obtain ⟨hkbuf, hklen⟩ := h.keying_key hp
    have habs := engAbsorb_alike b (hs.inner_wf _ ha) (ht.inner_wf _ (halg ha)) halike
    exact ⟨_, .hkupd b (halg ha) (hphase hp) (lenOk_congr _ halike ▸ hl), { h with
      keying_inner := fun _ => habs
      keying_key := fun _ => ⟨by simp [hkbuf, hklen], by simp [hklen]⟩
      loaded_key := fun hloaded => by simp [hp, keyLoaded] at hloaded
      msg_inner := fun _ => habs }⟩
  | hkfinShort ha hp hk =>
    obtain ⟨hkbuf, hklen⟩ := h.keying_key hp
    exact ⟨_, .hkfinShort (halg ha) (hphase hp) (hklen ▸ hk), { h with
      hphase_eq := rfl, keying_inner := nofun, keying_key := nofun, loaded_key := fun _ => hkbuf
      msg_inner := nofun, done_mac := nofun }⟩
  | @hkfinLong _ a ha hp hk =>
    obtain ⟨-, hklen⟩ := h.keying_key hp
    have hdigest := engFinalize_digest_alike a (h.keying_inner hp)
    exact ⟨_, .hkfinLong (halg ha) (hphase hp) (hklen ▸ hk), { h with
      hphase_eq := rfl, keying_inner := nofun, keying_key := nofun
      loaded_key := fun _ => by simp [digestKey, hdigest]
      msg_inner := nofun, done_mac := nofun }⟩
  | hminit ha hp =>
    have hkbuf := h.loaded_key hp
    have habs := absorbBytes_engInit_alike (hs.inner_wf _ ha).sized (ht.inner_wf _ (halg ha)).sized
    exact ⟨_, .hminit (halg ha) (h.hphase_eq ▸ hp), { h with
      hphase_eq := rfl, keying_inner := nofun, keying_key := nofun, loaded_key := fun _ => hkbuf
      msg_inner := fun _ => by rw [hkbuf]; exact habs _
      done_mac := nofun }⟩
  | hmupd b ha hp hl =>
    have halike := h.msg_inner hp
    have habs := engAbsorb_alike b (hs.inner_wf _ ha) (ht.inner_wf _ (halg ha)) halike
    exact ⟨_, .hmupd b (halg ha) (hphase hp) (lenOk_congr _ halike ▸ hl), { h with
      keying_inner := fun _ => habs, msg_inner := fun _ => habs }⟩
  | @hmfin _ a ha hp =>
    have hkbuf := h.loaded_key ((keyLoaded_iff _).mpr (.inr (.inl hp)))
    have hdigest := engFinalize_digest_alike a (h.msg_inner hp)
    exact ⟨_, .hmfin (halg ha) (hphase hp), { h with
      hphase_eq := rfl, keying_inner := nofun, keying_key := nofun, loaded_key := fun _ => hkbuf
      msg_inner := nofun
      done_mac := fun _ => by
        rw [hkbuf]
        exact outerDigest_alike (hs.outer_wf _ ha).sized (ht.outer_wf _ (halg ha)).sized _ hdigest }⟩
  | hrdm k ha hp hd =>
    exact ⟨t, .hrdm k (halg ha) (hphase hp) (digestByte_congr _ (h.done_mac hp) k ▸ hd), h⟩

theorem looksAlike_exec {s t : State} (h : LooksAlike s t) (hs : StateInv s) (ht : StateInv t) (i : Instr) :
    ∃ s' t', exec i s = .next s' ∧ exec i t = .next t' ∧ LooksAlike s' t' := by
  obtain ⟨c, hcs, hct⟩ | ⟨s', d, he⟩ := (h.sameGuards i).cases
  · exact ⟨_, _, hcs, hct, h.afterRefusal c⟩
  · obtain ⟨t', he', h'⟩ := he.looksAlike h hs ht
    exact ⟨_, _, exec_of_effect he, exec_of_effect he', h'.deliver _⟩

theorem looksAlike_runWord {s t : State} (h : LooksAlike s t) (hs : StateInv s) (ht : StateInv t) (w : Word) :
    ∃ s' t', runWord w s = .next s' ∧ runWord w t = .next t' ∧ LooksAlike s' t' := by
  cases hw : legalWord w with
  | false => exact ⟨_, _, runWord_reserved s hw, runWord_reserved t hw, h.afterRefusal .cmd⟩
  | true =>
    obtain ⟨i, hd, -⟩ := runWord_legal s hw
    rw [runWord, runWord, hd]
    exact looksAlike_exec h hs ht i

theorem looksAlike_step {s t : State} (h : LooksAlike s t) (hs : StateInv s) (ht : StateInv t) :
    ∃ s' t', step s = .next s' ∧ step t = .next t' ∧ LooksAlike s' t' := by
  have hin := h.input_eq
  have hreset (n : BitVec 4) (rest : List HostEvent) :
      LooksAlike (resetEvent n (s.setInput rest)) (resetEvent n (t.setInput rest)) :=
    resetEvent_congr n (s := s.setInput rest) (t := t.setInput rest) rfl h.out_eq ▸ LooksAlike.refl _
  cases hev : s.input with
  | nil => exact ⟨s, t, step_of_input_nil hev, step_of_input_nil (hin.symm.trans hev), h⟩
  | cons ev rest =>
    have hev' := hin.symm.trans hev
    cases ev with
    | command w =>
      rw [step_command hev, step_command hev']
      exact looksAlike_runWord (h.setInput rest) (hs.setInput rest) (ht.setInput rest) w
    | reset n => exact ⟨_, _, step_reset hev, step_reset hev', hreset n rest⟩
    | aborted w n => exact ⟨_, _, step_aborted hev, step_aborted hev', hreset n rest⟩

/-- Settles O41: the guards of a command read only what agrees (`LooksAlike.sameGuards`), and so does its effect
(`Effect.looksAlike`). -/
theorem looksAlikeIsKeptByEveryStep : Obligations.LooksAlikeIsKeptByEveryStep := by
  unfold Obligations.LooksAlikeIsKeptByEveryStep
  exact fun _ _ hs ht h => looksAlike_step h hs ht

/-! ### Runs after reset (70_reset_and_hazards.md rule R301) -/

/-- The run of a core goes on with the next state of its step. -/
theorem run_succ_of_step {s t : State} (h : step s = .next t) (k : Nat) :
    Host.Core.run core (k + 1) s = Host.Core.run core k t := by
  have hcore : core.step s = .next t := h
  simp only [Host.Core.run, hcore]

theorem looksAlike_run {s t : State} (h : LooksAlike s t) (hs : StateInv s) (ht : StateInv t) (k : Nat) :
    ∃ s' t', Host.Core.run core k s = .next s' ∧ Host.Core.run core k t = .next t' ∧ LooksAlike s' t' := by
  induction k generalizing s t with
  | zero => exact ⟨s, t, rfl, rfl, h⟩
  | succ k ih =>
    obtain ⟨s', t', hss, htt, h'⟩ := looksAlike_step h hs ht
    rw [run_succ_of_step hss, run_succ_of_step htt]
    exact ih h' (step_inv hs hss) (step_inv ht htt)

/-- With no phase entered a command can read none of the data registers. -/
theorem looksAlike_of_reset {s t : State} (hsel : s.sel = t.sel) (hrej : s.rej = t.rej) (herr : s.err = t.err)
    (hin : s.input = t.input) (hout : s.out = t.out) (hps : s.eng.phase = .uninit) (hpt : t.eng.phase = .uninit)
    (hhs : s.hphase = .noKey) (hht : t.hphase = .noKey) : LooksAlike s t := by
  refine ⟨hsel, hrej, herr, hhs.trans hht.symm, hin, hout, hps.trans hpt.symm, ?_, ?_, ?_, ?_, ?_, ?_, ?_⟩
  all_goals simp [hps, hhs, keyLoaded]

/-- Settles O42: right after a reset the two states look alike, and every step keeps that (`looksAlike_run`). -/
theorem unspecifiedResetValuesNeverReachTheHost : Obligations.UnspecifiedResetValuesNeverReachTheHost := by
  unfold Obligations.UnspecifiedResetValuesNeverReachTheHost
  intro s t k hs ht hsel hrej herr hin hout hps hpt hhs hht
  have hlook := looksAlike_of_reset hsel hrej herr hin hout hps hpt hhs hht
  obtain ⟨s', t', hss, htt, h⟩ := looksAlike_run hlook hs ht k
  exact ⟨s', t', hss, htt, h.out_eq⟩

end Sys2Proof.Machine

/-! PROOFS. The table of the engine phases (40_engine_commands.md rule R135), and the two sides of the CORE: what an
engine and a wrapper command write (20_memory.md section 5, 10_state.md section 10), and that they commute
(46_hmac.md section 4). -/

namespace Sys2Proof.Machine

/-! ### The table of the engine phases (40_engine_commands.md rule R135) -/

theorem phaseCell_wrapper {i : Instr} (p : Phase) (hi : isEngineCommand i = false) :
    phaseCell p i = (p, [0x00, 0x03, 0x04, 0x05]) := by
  cases i with
  | init | upd | fin | rdd | rds => exact absurd hi nofun
  | hkinit | hkupd | hkfin | hminit | hmupd | hmfin | hrdm => cases p <;> rfl

theorem phaseCell_rds (p : Phase) (n : Byte) : phaseCell p (.rds n) = (p, [0x00, 0x05]) := by cases p <;> rfl

/-- `PhaseCellRefuses p i c`: the cell of the table lets the command be refused for `c`, and PHASE then stays. -/
def PhaseCellRefuses (p : Phase) (i : Instr) (c : Cause) : Prop :=
  (phaseCell p i).1 = p ∧ causeCode c ∈ (phaseCell p i).2

theorem phaseCellRefuses_of_eq {p : Phase} {i : Instr} {c : Cause} {statuses : List Byte}
    (hcell : phaseCell p i = (p, statuses)) (hc : causeCode c ∈ statuses) : PhaseCellRefuses p i c := by
  rw [PhaseCellRefuses, hcell]
  exact ⟨rfl, hc⟩

theorem phaseCellRefuses_state {i : Instr} {p : Phase} {h : HPhase} (hp : refusedInPhase i p h = true) :
    PhaseCellRefuses p i .state := by
  cases i with
  | hkinit | hkupd | hkfin | hminit | hmupd | hmfin | hrdm =>
    exact phaseCellRefuses_of_eq (phaseCell_wrapper p rfl) (by decide)
  | init | rds => exact absurd hp nofun
  | upd | fin =>
    cases p with
    | ready => exact absurd hp nofun
    | uninit | final => exact phaseCellRefuses_of_eq rfl (by decide)
  | rdd =>
    cases p with
    | final => exact absurd hp nofun
    | uninit | ready => exact phaseCellRefuses_of_eq rfl (by decide)

/-- The cause of the guard a command meets is one that its cell lists. -/
theorem MeetsGuard.phaseCellRefuses {a : Alg} {i : Instr} {s : State} {c : Cause} (h : MeetsGuard a i s c) :
    PhaseCellRefuses s.eng.phase i c := by
  cases h with
  | state hp => exact phaseCellRefuses_state hp
  | idx hp hb =>
    cases i with
    | hkinit | hkupd | hkfin | hminit | hmupd | hmfin | hrdm =>
      exact phaseCellRefuses_of_eq (phaseCell_wrapper _ rfl) (by decide)
    | init | upd | fin => exact hb.elim
    | rds n => exact phaseCellRefuses_of_eq (phaseCell_rds _ n) (by decide)
    | rdd =>
      rw [show s.eng.phase = .final from eq_of_decide_ne hp]
      exact phaseCellRefuses_of_eq rfl (by decide)
  | len hp hl =>
    cases i with
    | hkinit | hkupd | hkfin | hminit | hmupd | hmfin | hrdm =>
      exact phaseCellRefuses_of_eq (phaseCell_wrapper _ rfl) (by decide)
    | init | fin | rdd | rds => exact hl.elim
    | upd =>
      rw [show s.eng.phase = .ready from eq_of_decide_ne hp]
      exact phaseCellRefuses_of_eq rfl (by decide)

/-- A command that has its effect moves PHASE as its cell says, and the cell lists the status OK. -/
theorem Effect.phaseCell_eq {i : Instr} {s t : State} {d : Byte} (h : Effect i s t d) :
    t.eng.phase = (phaseCell s.eng.phase i).1 ∧ 0 ∈ (phaseCell s.eng.phase i).2 := by
  cases h with
  | init => cases hs : s.eng.phase <;> exact ⟨rfl, by decide⟩
  | upd _ _ hp | fin _ hp | rdd _ _ hp => simp [phaseCell, hp]
  | rds n => simp [phaseCell_rds]
  | hkinit | hkupd | hkfinShort | hkfinLong | hminit | hmupd | hmfin | hrdm =>
    rw [phaseCell_wrapper s.eng.phase rfl]
    exact ⟨rfl, List.mem_cons_self⟩

/-- Every command is answered with a next state: a refusal, or its effect with the response OK. -/
theorem exec_next_cases (i : Instr) (s : State) :
    (∃ c, exec i s = .next (afterRefusal c s)) ∨
      ∃ t d, Effect i s t d ∧ exec i s = .next (t.deliver (okWord d)) := by
  simpa only [refusedState_eq] using exec_cases i s

/-- Settles O35: the guard a command meets gives the status, its effect the next PHASE; a rejected CORE has no effects
but that of RDS. -/
theorem engineCommandsFollowThePhaseTable : Obligations.EngineCommandsFollowThePhaseTable := by
  unfold Obligations.EngineCommandsFollowThePhaseTable
  refine ⟨fun i s a hr hs => ?configured, fun i s hr => ?rejected⟩
  case configured =>
    have ha := configuredAlg_some hr hs
    obtain ⟨c, hc⟩ | ⟨t, d, heffect⟩ := meetsGuard_or_effect i ha
    · obtain ⟨hstay, hstatus⟩ := hc.phaseCellRefuses
      exact ⟨_, causeCode c, 0, hc.exec_eq ha, by rw [← faultWord_eq_append]; rfl, hstay.symm, hstatus⟩
    · obtain ⟨hphase, hstatus⟩ := heffect.phaseCell_eq
      exact ⟨_, 0, d, exec_of_effect heffect, heffect.deliver_out, hphase, hstatus⟩
  case rejected =>
    obtain ⟨c, hexec⟩ | ⟨t, d, heffect, hexec⟩ := exec_next_cases i s
    · exact ⟨_, hexec, rfl⟩
    · obtain rfl := heffect.eq_of_unconfigured (configuredAlg_rejected hr)
      exact ⟨_, hexec, rfl⟩

/-! ### The frames of the two sides (20_memory.md section 5, 10_state.md section 10) -/

theorem Effect.engine_frame {i : Instr} {s t : State} {d : Byte} (h : Effect i s t d) (hi : isEngineCommand i = true) :
    t.inner = s.inner ∧ t.outer = s.outer ∧ t.hphase = s.hphase ∧ t.kbuf = s.kbuf ∧ t.klen = s.klen := by
  cases h with
  | init | upd | fin | rdd | rds => exact ⟨rfl, rfl, rfl, rfl, rfl⟩
  | hkinit | hkupd | hkfinShort | hkfinLong | hminit | hmupd | hmfin | hrdm => exact absurd hi nofun

theorem Effect.wrapper_frame {i : Instr} {s t : State} {d : Byte} (h : Effect i s t d)
    (hi : isEngineCommand i = false) : t.eng = s.eng := by
  cases h with
  | init | upd | fin | rdd | rds => exact absurd hi nofun
  | hkinit | hkupd | hkfinShort | hkfinLong | hminit | hmupd | hmfin | hrdm => rfl

theorem Effect.outer_frame {i : Instr} {s t : State} {d : Byte} (h : Effect i s t d) (hi : i ≠ .hmfin) :
    t.outer = s.outer := by
  cases h with
  | hmfin => exact absurd rfl hi
  | init | upd | fin | rdd | rds | hkinit | hkupd | hkfinShort | hkfinLong | hminit | hmupd | hrdm => rfl

theorem Effect.key_frame {i : Instr} {s t : State} {d : Byte} (h : Effect i s t d) (hinit : i ≠ .hkinit)
    (hupd : ∀ b, i ≠ .hkupd b) : t.klen = s.klen ∧ (i ≠ .hkfin → t.kbuf = s.kbuf) := by
  cases h with
  | hkinit => exact absurd rfl hinit
  | hkupd b => exact absurd rfl (hupd b)
  | hkfinShort | hkfinLong => exact ⟨rfl, fun hfin => absurd rfl hfin⟩
  | init | upd | fin | rdd | rds | hminit | hmupd | hmfin | hrdm => exact ⟨rfl, fun _ => rfl⟩

/-- The three read commands write no register at all. -/
theorem Effect.read_frame {i : Instr} {s t : State} {d k : Byte} (h : Effect i s t d)
    (hi : i = .rdd k ∨ i = .rds k ∨ i = .hrdm k) : t = s := by
  obtain rfl | rfl | rfl := hi <;> cases h <;> rfl

/-- Settles O37: a refused command writes ERR and the response only, an effect has the frames of its side. -/
theorem engineAndWrapperCommandsTouchTheirOwnSide : Obligations.EngineAndWrapperCommandsTouchTheirOwnSide := by
  unfold Obligations.EngineAndWrapperCommandsTouchTheirOwnSide
  intro i s t h
  obtain ⟨c, rfl⟩ | ⟨u, d, he, rfl⟩ := exec_eq_cases h
  · exact ⟨rfl, rfl, rfl, ⟨_, rfl⟩, fun _ => ⟨rfl, rfl, rfl, rfl, rfl⟩, fun _ => rfl, fun _ => rfl,
      fun _ _ => ⟨rfl, fun _ => rfl⟩, fun _ _ => ⟨rfl, rfl, rfl, rfl, rfl, rfl⟩⟩
  · obtain ⟨hsel, hrej, -, hin, -⟩ := he.keeps
    refine ⟨hsel, hrej, hin, ⟨_, he.deliver_out⟩, he.engine_frame, he.wrapper_frame, he.outer_frame, he.key_frame,
      fun k hk => ?read⟩
    case read =>
      obtain rfl := he.read_frame hk
      exact ⟨rfl, rfl, rfl, rfl, rfl, rfl⟩

/-! ### The two sides commute (46_hmac.md section 4) -/

/-- The registers of the wrapper written as they are in `w`; ERR bits added and a response delivered. -/
def State.wrapperWrite (u w : State) (bits : BitVec 5) (resp : Word) : State :=
  { u with inner := w.inner, outer := w.outer, hphase := w.hphase, kbuf := w.kbuf, klen := w.klen,
           err := u.err ||| bits, out := u.out ++ [resp] }

/-- ENG written; ERR bits added and a response delivered. -/
def State.engineWrite (u : State) (e : Engine) (bits : BitVec 5) (resp : Word) : State :=
  { u with eng := e, err := u.err ||| bits, out := u.out ++ [resp] }

theorem faultWord_injective : Function.Injective faultWord := by
  intro c c' h
  cases c <;> cases c' <;> simp [faultWord] at h ⊢

theorem afterRefusal_inj {c c' : Cause} {s : State} (h : afterRefusal c s = afterRefusal c' s) : c = c' :=
  faultWord_injective (response_inj (congrArg State.out h))

/-- A command refused in one of two states with the same guards is refused in the other, for the same cause. -/
theorem SameGuards.refused {i : Instr} {s t : State} {c : Cause} (h : SameGuards i s t)
    (hs : exec i s = .next (afterRefusal c s)) : exec i t = .next (afterRefusal c t) := by
  obtain ⟨c', hcs, hct⟩ | ⟨s', d, he⟩ := h.cases
  · exact afterRefusal_inj (Host.Outcome.next.inj (hcs.symm.trans hs)) ▸ hct
  · exact absurd hs (he.not_refused c)

/-- The guards of an engine command read ALGR and ENG only. -/
theorem sameGuards_wrapperWrite {i : Instr} (hi : isEngineCommand i = true) (s w : State) (bits : BitVec 5)
    (resp : Word) : SameGuards i s (s.wrapperWrite w bits resp) := by
  cases i with
  | init | upd | fin | rdd | rds => exact ⟨rfl, rfl, fun _ _ => Iff.rfl⟩
  | hkinit | hkupd | hkfin | hminit | hmupd | hmfin | hrdm => exact absurd hi nofun

/-- The guards of a wrapper command read ALGR and the wrapper's registers only. -/
theorem sameGuards_engineWrite {i : Instr} (hi : isEngineCommand i = false) (s : State) (e : Engine)
    (bits : BitVec 5) (resp : Word) : SameGuards i s (s.engineWrite e bits resp) := by
  cases i with
  | init | upd | fin | rdd | rds => exact absurd hi nofun
  | hkinit | hkupd | hkfin | hminit | hmupd | hmfin | hrdm => exact ⟨rfl, rfl, fun _ _ => Iff.rfl⟩

/-- An engine command other than RDS has the same effect on ENG whatever the wrapper did before. -/
theorem Effect.wrapperWrite {i : Instr} {s t : State} {d : Byte} (h : Effect i s t d) (hi : isEngineCommand i = true)
    (hrds : ∀ n, i ≠ .rds n) (w : State) (bits : BitVec 5) (resp : Word) :
    Effect i (s.wrapperWrite w bits resp) ((s.wrapperWrite w bits resp).setEng t.eng) d := by
  cases h with
  | init ha => exact .init (s := s.wrapperWrite w bits resp) ha
  | upd b ha hp hl => exact .upd (s := s.wrapperWrite w bits resp) b ha hp hl
  | fin ha hp => exact .fin (s := s.wrapperWrite w bits resp) ha hp
  | rdd k ha hp hd => exact .rdd (s := s.wrapperWrite w bits resp) k ha hp hd
  | rds n => exact absurd rfl (hrds n)
  | hkinit | hkupd | hkfinShort | hkfinLong | hminit | hmupd | hmfin | hrdm => exact absurd hi nofun

/-- A wrapper command has the same effect on the wrapper whatever happened to ENG before. -/
theorem Effect.engineWrite {i : Instr} {s t : State} {d : Byte} (h : Effect i s t d) (hi : isEngineCommand i = false)
    (e : Engine) (bits : BitVec 5) (resp : Word) :
    Effect i (s.engineWrite e bits resp) { t with eng := e, err := s.err ||| bits, out := s.out ++ [resp] } d := by
  cases h with
  | init | upd | fin | rdd | rds => exact absurd hi nofun
  | hkinit ha => exact .hkinit (s := s.engineWrite e bits resp) ha
  | hkupd b ha hp hl => exact .hkupd (s := s.engineWrite e bits resp) b ha hp hl
  | hkfinShort ha hp hk => exact .hkfinShort (s := s.engineWrite e bits resp) ha hp hk
  | hkfinLong ha hp hk => exact .hkfinLong (s := s.engineWrite e bits resp) ha hp hk
  | hminit ha hp => exact .hminit (s := s.engineWrite e bits resp) ha hp
  | hmupd b ha hp hl => exact .hmupd (s := s.engineWrite e bits resp) b ha hp hl
  | hmfin ha hp => exact .hmfin (s := s.engineWrite e bits resp) ha hp
  | hrdm k ha hp hd => exact .hrdm (s := s.engineWrite e bits resp) k ha hp hd

/-- An effect of an engine command, with its response, is a write of ENG. -/
theorem Effect.deliver_eq_engineWrite {i : Instr} {s t : State} {d : Byte} (h : Effect i s t d)
    (hi : isEngineCommand i = true) (w : Word) : t.deliver w = s.engineWrite t.eng 0 w := by
  cases h with
  | init | upd | fin | rdd | rds => simp [State.deliver, State.engineWrite, State.setEng]
  | hkinit | hkupd | hkfinShort | hkfinLong | hminit | hmupd | hmfin | hrdm => exact absurd hi nofun

/-- An effect of a wrapper command, with its response, is a write of the wrapper's registers. -/
theorem Effect.deliver_eq_wrapperWrite {i : Instr} {s t : State} {d : Byte} (h : Effect i s t d)
    (hi : isEngineCommand i = false) (w : Word) : t.deliver w = s.wrapperWrite t 0 w := by
  obtain ⟨hsel, hrej, herr, hin, hout⟩ := h.keeps
  have heng := h.wrapper_frame hi
  simp [State.deliver, State.wrapperWrite, ← hsel, ← hrej, ← herr, ← hin, ← hout, ← heng]

/-- An engine command other than RDS does to ENG, ERR and the responses what the wrapper side has no part in. -/
theorem exec_engine_local {i : Instr} (s : State) (hi : isEngineCommand i = true) (hrds : ∀ n, i ≠ .rds n) :
    ∃ e bits x, exec i s = .next (s.engineWrite e bits x) ∧ ∀ w m y,
      exec i (s.wrapperWrite w m y) = .next ((s.wrapperWrite w m y).engineWrite e bits x) := by
  obtain ⟨c, hc⟩ | ⟨t, d, he, ht⟩ := exec_next_cases i s
  · exact ⟨s.eng, faultMask c, faultWord c, hc, fun w m y => (sameGuards_wrapperWrite hi s w m y).refused hc⟩
  · refine ⟨t.eng, 0, okWord d, by rw [ht, he.deliver_eq_engineWrite hi], fun w m y => ?_⟩
    have he' := he.wrapperWrite hi hrds w m y
    rw [exec_of_effect he', he'.deliver_eq_engineWrite hi]
    rfl

/-- A wrapper command does to the wrapper, ERR and the responses what ENG has no part in. -/
theorem exec_wrapper_local {j : Instr} (s : State) (hj : isEngineCommand j = false) :
    ∃ w bits y, exec j s = .next (s.wrapperWrite w bits y) ∧ ∀ e m x,
      exec j (s.engineWrite e m x) = .next ((s.engineWrite e m x).wrapperWrite w bits y) := by
  obtain ⟨c, hc⟩ | ⟨t, d, he, ht⟩ := exec_next_cases j s
  · exact ⟨s, faultMask c, faultWord c, hc, fun e m x => (sameGuards_engineWrite hj s e m x).refused hc⟩
  · refine ⟨t, 0, okWord d, by rw [ht, he.deliver_eq_wrapperWrite hj], fun e m x => ?_⟩
    have he' := he.engineWrite hj e m x
    rw [exec_of_effect he', he'.deliver_eq_wrapperWrite hj]
    rfl

/-- Writes of the two sides commute up to the order of their responses. -/
theorem State.engineWrite_wrapperWrite (s w : State) (e : Engine) (m n : BitVec 5) (x y : Word) :
    (s.wrapperWrite w n y).engineWrite e m x =
      { (s.engineWrite e m x).wrapperWrite w n y with out := s.out ++ [y, x] } := by
  simp [State.engineWrite, State.wrapperWrite, BitVec.or_assoc, BitVec.or_comm n m]

/-- Settles O38: each command is a write of its own side (`exec_engine_local`, `exec_wrapper_local`), and ERR bits are
added in either order. -/
theorem engineAndWrapperCommandsCommute : Obligations.EngineAndWrapperCommandsCommute := by
  unfold Obligations.EngineAndWrapperCommandsCommute
  intro i j s hi hrds hj
  obtain ⟨e, m, x, hi1, hi2⟩ := exec_engine_local s hi hrds
  obtain ⟨w, n, y, hj1, hj2⟩ := exec_wrapper_local s hj
  exact ⟨_, _, _, _, x, y, hi1, hj2 e m x, hj1, hi2 w n y, rfl, List.append_assoc _ _ _, rfl,
    s.engineWrite_wrapperWrite w e m n x y⟩

end Sys2Proof.Machine

/-! PROOFS. The digest of a message: streaming it byte by byte equals padding and compressing the whole message
(40_engine_commands.md section 7, 41_padding_and_digest.md sections 1 to 3), and how many blocks the padding takes. -/

namespace Sys2Proof.Machine

/-! ### The number of padding blocks (41_padding_and_digest.md rule R157) -/

theorem blocksOf_length (B : Nat) (s : List Byte) : (blocksOf B s).length = s.length / B := by simp [blocksOf]

/-- Settles O50: `padTail_length`, and a sequence of n blocks is cut into n. -/
theorem paddingTakesOneOrTwoBlocks : Obligations.PaddingTakesOneOrTwoBlocks := by
  unfold Obligations.PaddingTakesOneOrTwoBlocks
  intro a m l hm
  have hB := B_pos a
  have hlen := padTail_length a m l hm
  rw [blocksOf_length]
  refine ⟨fun _ hfits => ?one, fun hne hspill => ?two, fun hmd2 => ?md2⟩
  case one =>
    rw [if_pos (.inr hfits)] at hlen
    exact ⟨hlen, by rw [hlen, Nat.div_self hB]⟩
  case two =>
    have hLF := LF_lt_B a
    have hnot : ¬ (a = .md2 ∨ m.length ≤ a.B - a.LF - 1) := by
      rintro (h | h)
      · exact hne h
      · omega
    rw [if_neg hnot] at hlen
    exact ⟨hlen, by rw [hlen, Nat.mul_div_cancel _ hB]⟩
  case md2 =>
    rw [if_pos (.inl hmd2)] at hlen
    exact ⟨by rw [hlen, hmd2]; rfl, by rw [hlen, Nat.div_self hB]⟩

/-! ### The padding of the whole message and that of its pending bytes (rules R151 to R155) -/

/-- The bytes that follow the message in its padded form: those of pad_tail after the pending bytes. -/
def paddingOf (a : Alg) (n : Nat) : List Byte :=
  if a = .md2 then rep (BitVec.ofNat 8 (16 - n % 16)) (16 - n % 16)
  else [0x80] ++ rep 0x00 ((a.B - (n + 1 + a.LF) % a.B) % a.B) ++ lengthField a (8 * n)

theorem paddedMessage_eq (a : Alg) (msg : List Byte) : paddedMessage a msg = msg ++ paddingOf a msg.length := by
  rw [paddedMessage, paddingOf]
  split
  · rfl
  · simp only [List.append_assoc]

/-- The zeros that pad_tail counts from the pending bytes are the fewest that end the length field at a block
boundary. -/
theorem zeros_of_pending (a : Alg) (n : Nat) :
    (a.B - a.LF - 1 + a.B - n % a.B) % a.B = (a.B - (n + 1 + a.LF) % a.B) % a.B := by
  cases a <;> simp only [Alg.B, Alg.LF, Alg.params] <;> omega

/-- pad_tail of the pending bytes and the whole bit count is those bytes and the padding of the whole message. -/
theorem padTail_pendingBytes (a : Alg) (msg : List Byte) :
    padTail a (pendingBytes a.B msg) (8 * msg.length) = pendingBytes a.B msg ++ paddingOf a msg.length := by
  have hlen := pendingBytes_length a.B msg
  by_cases ha : a = .md2
  · subst ha
    have hlen16 : (pendingBytes Alg.md2.B msg).length = msg.length % 16 := hlen
    rw [padTail, padTailMd2, hlen16, paddingOf, if_pos rfl]
  · rw [padTail_eq_markTail _ _ ha, markTail, hlen, zeros_of_pending, paddingOf, if_neg ha]
    simp only [List.append_assoc]

/-! ### The working registers that an algorithm has (10_state.md rules R22, R23) -/

/-- The working registers that the algorithm has, alone: every other register is empty. -/
def usedRegs (a : Alg) (e : Engine) : Engine :=
  match a with
  | .md2 => { engineRejected with x := e.x, c := e.c }
  | .md4 | .md5 | .sha1 | .sha2_224 | .sha2_256 => { engineRejected with h32 := e.h32 }
  | .sha2_384 | .sha2_512 | .sha2_512_224 | .sha2_512_256 => { engineRejected with h64 := e.h64 }

theorem compress_usedRegs (a : Alg) (e : Engine) (blk : List Byte) :
    compress a (usedRegs a e) blk = usedRegs a (compress a e blk) := by
  cases a <;> simp only [compress, usedRegs]

theorem compressChecksum_usedRegs (a : Alg) (e : Engine) :
    compressChecksum a (usedRegs a e) = usedRegs a (compressChecksum a e) := by
  cases a <;> simp only [compressChecksum, compress, usedRegs]

theorem extract_usedRegs (a : Alg) (e : Engine) : extract a (usedRegs a e) = extract a e := by cases a <;> rfl

/-- eng_init loads every register that the algorithm has. -/
theorem usedRegs_engInit (a : Alg) (e f : Engine) : usedRegs a (engInit a e) = usedRegs a (loadIv a f) := by
  cases a <;> rfl

theorem RegsAgree.usedRegs_eq {e f : Engine} (a : Alg) (h : RegsAgree e f) : usedRegs a e = usedRegs a f := by
  cases a <;> simp only [usedRegs, h.h32_eq, h.h64_eq, h.x_eq, h.c_eq]

theorem compressBlocks_usedRegs (a : Alg) (e : Engine) (s : List Byte) :
    compressBlocks a (usedRegs a e) s = usedRegs a (compressBlocks a e s) :=
  List.foldl_hom (usedRegs a) (compress_usedRegs a)

/-- The digest that a byte sequence leads to from the registers of `e`: its blocks, the checksum block, the
extraction. -/
def digestFrom (a : Alg) (e : Engine) (s : List Byte) : List Byte :=
  extract a (compressChecksum a (compressBlocks a e s))

theorem digestFrom_congr {a : Alg} {e f : Engine} (s : List Byte) (h : usedRegs a e = usedRegs a f) :
    digestFrom a e s = digestFrom a f s := by
  rw [digestFrom, digestFrom, ← extract_usedRegs, ← extract_usedRegs a (compressChecksum a (compressBlocks a f s)),
    ← compressChecksum_usedRegs, ← compressChecksum_usedRegs, ← compressBlocks_usedRegs, ← compressBlocks_usedRegs, h]

theorem digestOf_eq_digestFrom (a : Alg) (msg : List Byte) :
    digestOf a msg = digestFrom a (loadIv a (engineAtReset a)) (msg ++ paddingOf a msg.length) := by
  rw [← paddedMessage_eq]
  rfl

/-- The digest of an engine that holds a message is that of the whole padded message from where it began. -/
theorem HoldsMessage.digest {a : Alg} {e0 e : Engine} {msg : List Byte} (h : HoldsMessage a e0 e msg)
    (hbits : e.bitlen = 8 * msg.length) :
    (engFinalize a e).digest = digestFrom a e0 (msg ++ paddingOf a msg.length) := by
  have hstart : digestFrom a e0 (msg ++ paddingOf a msg.length) =
      digestFrom a (compressBlocks a e0 msg) (pendingBytes a.B msg ++ paddingOf a msg.length) := by
    rw [digestFrom, compressBlocks_append_pendingBytes, ← digestFrom]
  have htail : (engFinalize a e).digest = digestFrom a e (padTail a (e.buf.take e.buflen) e.bitlen) := rfl
  rw [htail, h.buf_take, hbits, padTail_pendingBytes, hstart]
  exact digestFrom_congr _ (h.regs.usedRegs_eq a)

/-- Absorbing a message after eng_init and finalizing gives its digest, whatever the engine held before. -/
theorem engFinalize_absorbBytes_digest (a : Alg) (e : Engine) (msg : List Byte) :
    (engFinalize a (absorbBytes a (engInit a e) msg)).digest = digestOf a msg := by
  obtain ⟨-, -, hbits⟩ := absorbBytes_keeps a msg (engInit a e)
  rw [(absorbBytes_holds a e msg).digest (by simpa using hbits), digestOf_eq_digestFrom]
  exact digestFrom_congr _ (usedRegs_engInit a e _)

/-- Settles O44: an engine that has absorbed a message holds it (`HoldsMessage.digest`), and eng_init leaves nothing
of what a compression reads (`usedRegs_engInit`). -/
theorem streamingEngineEqualsWholeMessageDigest : Obligations.StreamingEngineEqualsWholeMessageDigest := by
  unfold Obligations.StreamingEngineEqualsWholeMessageDigest
  exact engFinalize_absorbBytes_digest

end Sys2Proof.Machine

/-! PROOFS. The data of the CORE: the byte and word conversions (00_scope.md rule R10), the parameter table (rule
R6), the SHA-1 schedule (43_sha1.md rule R204) and the worked examples; and the HOST's HASHSTREAM (30_encoding.md
rule R101). -/

namespace Sys2Proof.Machine

/-! ### The SHA-1 schedule (43_sha1.md rule R204) -/

theorem sha1Schedule_length (blk : List Byte) : (sha1Schedule blk).length = 80 := by simp [sha1Schedule_eq]

/-- A word of the schedule as an entry that exists. -/
theorem sha1Schedule_getElem? (blk : List Byte) {j : Nat} (h : j < 80) :
    (sha1Schedule blk)[j]? = some ((sha1Schedule blk).getD j 0) := by
  have hj : j < (sha1Schedule blk).length := by rw [sha1Schedule_length]; exact h
  rw [List.getD_eq_getElem _ _ hj, List.getElem?_eq_getElem hj]

theorem sha1Schedule_getD_of_getElem? {blk : List Byte} {j : Nat} {w : W32} (h : (sha1Schedule blk)[j]? = some w) :
    (sha1Schedule blk).getD j 0 = w := by rw [List.getD_eq_getElem?_getD, h, Option.getD_some]

/-- Settles O52: `sha1Schedule_getD_block` and `sha1Schedule_getD_recurrence`, at indices that exist. -/
theorem sha1ScheduleRecurrence : Obligations.Sha1ScheduleRecurrence := by
  unfold Obligations.Sha1ScheduleRecurrence
  refine fun blk => ⟨sha1Schedule_length blk, fun j hj => ?block, ?recurrence⟩
  case block => rw [sha1Schedule_getElem? blk (by omega), sha1Schedule_getD_block blk hj]
  case recurrence =>
    intro j h16 h80 w3 w8 w14 w16 h3 h8 h14 h16'
    rw [sha1Schedule_getElem? blk h80, sha1Schedule_getD_recurrence blk h16 h80, sha1Schedule_getD_of_getElem? h3,
      sha1Schedule_getD_of_getElem? h8, sha1Schedule_getD_of_getElem? h14, sha1Schedule_getD_of_getElem? h16']

/-! ### Bytes and words (00_scope.md rule R10) -/

theorem leNat_lt (s : List Byte) : leNat s < 256 ^ s.length := by
  induction s with
  | nil => exact Nat.one_pos
  | cons b s ih =>
    have hb := b.isLt
    rw [leNat_cons, List.length_cons, Nat.pow_succ]
    omega

theorem beNat_eq (s : List Byte) : beNat s = leNat s.reverse := by rw [← beNat_reverse, List.reverse_reverse]

theorem beNat_lt (s : List Byte) : beNat s < 256 ^ s.length := by
  rw [beNat_eq, ← List.length_reverse]
  exact leNat_lt _

theorem beBytes_beNat (s : List Byte) : beBytes s.length (beNat s) = s := by
  rw [beBytes, beNat_eq, ← List.length_reverse, leBytes_leNat, List.reverse_reverse]

theorem beNat_beBytes (n v : Nat) : beNat (beBytes n v) = v % 256 ^ n := by rw [beBytes, beNat_reverse, leNat_leBytes]

/-- A word of n bytes has room for the number of n bytes. -/
theorem toNat_ofNat_of_bytes {w n v : Nat} (h : v < 256 ^ n) (hw : 2 ^ w = 256 ^ n) : (BitVec.ofNat w v).toNat = v := by
  rw [BitVec.toNat_ofNat, hw, Nat.mod_eq_of_lt h]

theorem toNat_lt_bytes {w n : Nat} (x : BitVec w) (hw : 2 ^ w = 256 ^ n) : x.toNat < 256 ^ n := hw ▸ x.isLt

theorem le32_toNat {s : List Byte} (h : s.length = 4) : (le32 s).toNat = leNat s :=
  toNat_ofNat_of_bytes (h ▸ leNat_lt s) rfl

theorem be32_toNat {s : List Byte} (h : s.length = 4) : (be32 s).toNat = beNat s :=
  toNat_ofNat_of_bytes (h ▸ beNat_lt s) rfl

theorem be64_toNat {s : List Byte} (h : s.length = 8) : (be64 s).toNat = beNat s :=
  toNat_ofNat_of_bytes (h ▸ beNat_lt s) rfl

theorem toLe32_le32 {s : List Byte} (h : s.length = 4) : toLe32 (le32 s) = s := by
  rw [toLe32, le32_toNat h, ← h, leBytes_leNat]

theorem toBe32_be32 {s : List Byte} (h : s.length = 4) : toBe32 (be32 s) = s := by
  rw [toBe32, be32_toNat h, ← h, beBytes_beNat]

theorem toBe64_be64 {s : List Byte} (h : s.length = 8) : toBe64 (be64 s) = s := by
  rw [toBe64, be64_toNat h, ← h, beBytes_beNat]

theorem le32_toLe32 (w : W32) : le32 (toLe32 w) = w := by
  rw [le32, toLe32, leNat_leBytes, Nat.mod_eq_of_lt (toNat_lt_bytes w rfl), BitVec.ofNat_toNat, BitVec.setWidth_eq]

theorem be32_toBe32 (w : W32) : be32 (toBe32 w) = w := by
  rw [be32, toBe32, beNat_beBytes, Nat.mod_eq_of_lt (toNat_lt_bytes w rfl), BitVec.ofNat_toNat, BitVec.setWidth_eq]

theorem be64_toBe64 (w : W64) : be64 (toBe64 w) = w := by
  rw [be64, toBe64, beNat_beBytes, Nat.mod_eq_of_lt (toNat_lt_bytes w rfl), BitVec.ofNat_toNat, BitVec.setWidth_eq]

/-- Settles O55: the weights are those of `leNat` and `beNat`; the inverses hold since the words have room for the
number of their bytes. -/
theorem byteAndWordConversionsAreInverse : Obligations.ByteAndWordConversionsAreInverse := by
  unfold Obligations.ByteAndWordConversionsAreInverse
  refine ⟨fun b0 b1 b2 b3 => ⟨?le32, ?be32, toLe32_le32 rfl, toBe32_be32 rfl⟩,
    fun b0 b1 b2 b3 b4 b5 b6 b7 => ⟨?be64, toBe64_be64 rfl⟩, fun w => ⟨le32_toLe32 w, be32_toBe32 w⟩,
    fun w => ⟨be64_toBe64 w, toBe64_length w⟩⟩
  case le32 =>
    rw [le32_toNat rfl]
    simp only [leNat, List.foldr]
    omega
  case be32 =>
    rw [be32_toNat rfl]
    simp only [beNat, List.foldl]
    omega
  case be64 =>
    rw [be64_toNat rfl]
    simp only [beNat, List.foldl]
    omega

/-! ### The parameter table (00_scope.md rule R6) -/

/-- The set of the values of a byte sequence as a bit mask: bit v is set when the byte v occurs. -/
def valueMask (s : List Byte) : Nat := s.foldr (fun b n => 2 ^ b.toNat ||| n) 0

theorem mem_of_testBit_valueMask {s : List Byte} {v : Byte} (h : (valueMask s).testBit v.toNat = true) : v ∈ s := by
  induction s with
  | nil => simp [valueMask] at h
  | cons b s ih =>
    have hcons : valueMask (b :: s) = 2 ^ b.toNat ||| valueMask s := rfl
    rw [hcons, Nat.testBit_lor, Nat.testBit_two_pow, Bool.or_eq_true, decide_eq_true_iff] at h
    obtain hb | hs := h
    · exact List.mem_cons.mpr (.inl (BitVec.eq_of_toNat_eq hb.symm))
    · exact List.mem_cons_of_mem b (ih hs)

/-- The S-box of MD2 takes all 256 values. -/
theorem md2S_valueMask : valueMask ((List.range 256).map fun t => Rom.md2S (BitVec.ofNat 8 t)) = 2 ^ 256 - 1 := by
  decide +kernel

/-- The S-box of MD2 is a permutation (42_md_family.md rule R188). -/
theorem md2S_surjective (v : Byte) : ∃ t : Byte, Rom.md2S t = v := by
  have hmem := mem_of_testBit_valueMask (v := v)
    (md2S_valueMask ▸ (Nat.testBit_two_pow_sub_one 256 v.toNat).trans (decide_eq_true v.isLt))
  obtain ⟨t, -, ht⟩ := List.mem_map.mp hmem
  exact ⟨_, ht⟩

/-- Settles O58: the tables row by row, the S-box by `md2S_surjective`. -/
theorem parametersAreTheTableOfTheTenAlgorithms : Obligations.ParametersAreTheTableOfTheTenAlgorithms := by
  unfold Obligations.ParametersAreTheTableOfTheTenAlgorithms
  exact ⟨by decide, by decide, md2S_surjective, DL_le_B⟩

/-! ### The worked examples -/

/-- Settles O57, by evaluating each compression on its block. -/
theorem workedExamplesOfTheCompressors : Obligations.WorkedExamplesOfTheCompressors := by
  unfold Obligations.WorkedExamplesOfTheCompressors
  refine ⟨?md5, ?md4, ?md2State, ?md2Checksum, ?sha1, ?sha256, ?sha224, ?sha512, ?sha384, ?sha512_224, ?sha512_256⟩
  all_goals decide +kernel

/-! ### HASHSTREAM (30_encoding.md rule R101) -/

/-- The chunks of a source, one after the other, are the source, as long as no chunk is empty. -/
theorem chunksFrom_flatten {k : Nat} (hk : 0 < k) (fuel : Nat) (s : List Byte) (h : s.length ≤ fuel) :
    (chunksFrom k fuel s).flatten = s := by
  induction fuel generalizing s with
  | zero => rw [List.eq_nil_of_length_eq_zero (Nat.le_zero.mp h)]; rfl
  | succ fuel ih =>
    rw [chunksFrom]
    split
    · next hs => rw [List.isEmpty_iff.mp hs]; rfl
    · have hrest : (s.drop k).length ≤ fuel := by rw [List.length_drop]; omega
      rw [List.flatten_cons, ih _ hrest, List.take_append_drop]

theorem flatMap_updsCommands (l : List (List Byte)) : l.flatMap updsCommands = updsCommands l.flatten := by
  rw [updsCommands, List.map_flatten]
  rfl

/-- Settles O56: UPD by UPD the chunks are the source (`chunksFrom_flatten`). -/
theorem hashStreamIsHashWhateverTheChunk : Obligations.HashStreamIsHashWhateverTheChunk := by
  unfold Obligations.HashStreamIsHashWhateverTheChunk
  intro chunk s hchunk
  rw [hashStreamCommands, hashCommands, flatMap_updsCommands, chunksFrom_flatten hchunk _ _ (Nat.le_refl _)]

end Sys2Proof.Machine

/-! PROOFS. The command sequences of 30_encoding.md section 5 run from any state of a configured CORE: HASH and RDDALL
(40_engine_commands.md section 7), HKEY, HMSG, HRDMALL and HMAC (46_hmac.md sections 1 to 3). -/

namespace Sys2Proof.Machine

/-! ### Command sequences that run without a refusal -/

/-- Several response words delivered. -/
def State.answered (s : State) (ws : List Word) : State := { s with out := s.out ++ ws }

theorem State.answered_nil (s : State) : s.answered [] = s := by rw [State.answered, List.append_nil]

theorem State.deliver_answered (s : State) (ws : List Word) (w : Word) :
    (s.answered ws).deliver w = s.answered (ws ++ [w]) := by
  simp only [State.answered, State.deliver, List.append_assoc]

/-- No command looks at the responses delivered so far. -/
theorem Effect.answered {i : Instr} {s t : State} {d : Byte} (ws : List Word) (h : Effect i s t d) :
    Effect i (s.answered ws) (t.answered ws) d := by
  cases h with
  | init ha => exact .init (s := s.answered ws) ha
  | upd b ha hp hl => exact .upd (s := s.answered ws) b ha hp hl
  | fin ha hp => exact .fin (s := s.answered ws) ha hp
  | rdd k ha hp hd => exact .rdd k ha hp hd
  | rds n hd => exact .rds n hd
  | hkinit ha => exact .hkinit (s := s.answered ws) ha
  | hkupd b ha hp hl => exact .hkupd (s := s.answered ws) b ha hp hl
  | hkfinShort ha hp hk => exact .hkfinShort (s := s.answered ws) ha hp hk
  | hkfinLong ha hp hk => exact .hkfinLong (s := s.answered ws) ha hp hk
  | hminit ha hp => exact .hminit (s := s.answered ws) ha hp
  | hmupd b ha hp hl => exact .hmupd (s := s.answered ws) b ha hp hl
  | hmfin ha hp => exact .hmfin (s := s.answered ws) ha hp
  | hrdm k ha hp hd => exact .hrdm k ha hp hd

/-- `Executes cs s t ws`: the commands, one after the other from `s`, each have their effect, the last leaves `t`, and
their responses are `ws`, which `t` does not hold yet. -/
inductive Executes : List Instr → State → State → List Word → Prop
  | nil (s : State) : Executes [] s s []
  | cons {i : Instr} {cs : List Instr} {s t u : State} {d : Byte} {ws : List Word} (head : Effect i s t d)
      (tail : Executes cs t u ws) : Executes (i :: cs) s u (okWord d :: ws)

theorem Executes.single {i : Instr} {s t : State} {d : Byte} (h : Effect i s t d) : Executes [i] s t [okWord d] :=
  .cons h (.nil t)

theorem Executes.append {cs ds : List Instr} {s t u : State} {v w : List Word} (h : Executes cs s t v)
    (k : Executes ds t u w) : Executes (cs ++ ds) s u (v ++ w) := by
  induction h with
  | nil => exact k
  | cons head _ ih => exact .cons head (ih k)

/-- No command of a sequence writes ALGR, ERR or the HOST's side. -/
theorem Executes.keeps {cs : List Instr} {s t : State} {ws : List Word} (h : Executes cs s t ws) :
    t.sel = s.sel ∧ t.rej = s.rej ∧ t.err = s.err ∧ t.input = s.input ∧ t.out = s.out := by
  induction h with
  | nil => exact ⟨rfl, rfl, rfl, rfl, rfl⟩
  | cons head _ ih =>
    obtain ⟨hsel, hrej, herr, hin, hout⟩ := head.keeps
    obtain ⟨hsel', hrej', herr', hin', hout'⟩ := ih
    exact ⟨hsel'.trans hsel, hrej'.trans hrej, herr'.trans herr, hin'.trans hin, hout'.trans hout⟩

/-- One step of a CORE whose HOST is sending a command that has its effect. -/
theorem step_sending {i : Instr} {s t : State} {d : Byte} (cs : List Instr) (h : Effect i s t d) :
    step (s.sending (i :: cs)) = .next ((t.deliver (okWord d)).sending cs) := by
  obtain ⟨-, -, -, hin, -⟩ := h.keeps
  have hstep := step_command_of_decode (s := s.sending (i :: cs)) rfl (decode_encode i)
  have hexec := exec_of_effect (h.setInput (cs.map (fun i => .command (encode i)) ++ s.input))
  rw [← hin] at hexec hstep
  exact hstep.trans hexec

theorem Executes.run_answered {cs : List Instr} {s t : State} {ws : List Word} (h : Executes cs s t ws)
    (before : List Word) :
    Host.Core.run core cs.length ((s.answered before).sending cs) = .next (t.answered (before ++ ws)) := by
  induction h generalizing before with
  | nil => rw [List.append_nil]; rfl
  | @cons i cs _ _ _ _ _ head _ ih =>
    have hstep := step_sending cs (head.answered before)
    rw [State.deliver_answered] at hstep
    rw [List.length_cons, run_succ_of_step hstep, ih, List.append_assoc]
    rfl

/-- The machine runs a sequence of commands that its HOST sends, and delivers the responses. -/
theorem Executes.run {cs : List Instr} {s t : State} {ws : List Word} (h : Executes cs s t ws) :
    Host.Core.run core cs.length (s.sending cs) = .next (t.answered ws) := by
  have hrun := h.run_answered []
  rwa [State.answered_nil, List.nil_append] at hrun

/-! ### Commands that walk through a byte sequence -/

/-- One command for each byte: `σ p` is the state once the bytes `p` have been sent. -/
theorem executes_bytes {f : Byte → Instr} {σ : List Byte → State} (bs : List Byte)
    (h : ∀ p b, p ++ [b] <+: bs → Effect (f b) (σ p) (σ (p ++ [b])) 0) :
    Executes (bs.map f) (σ []) (σ bs) (List.replicate bs.length 0x0000) := by
  induction bs using List.reverseRecOn with
  | nil => exact .nil _
  | append_singleton p b ih =>
    have hp := ih fun q c hq => h q c (hq.trans (List.prefix_append p [b]))
    have hall := hp.append (.single (h p b List.prefix_rfl))
    rw [List.map_append, List.length_append, List.length_singleton, List.replicate_succ']
    exact hall

theorem executes_reads_take {f : Byte → Instr} {s : State} {digest : List Byte} (hlen : digest.length ≤ 256)
    (h : ∀ k : Byte, k.toNat < digest.length → Effect (f k) s s (digest.getD k.toNat 0)) (m : Nat)
    (hm : m ≤ digest.length) :
    Executes ((List.range m).map fun k => f (BitVec.ofNat 8 k)) s s
      ((digest.take m).map fun d => BitVec.ofNat 16 d.toNat) := by
  induction m with
  | zero => exact .nil s
  | succ m ih =>
    have hk : (BitVec.ofNat 8 m).toNat = m := by rw [BitVec.toNat_ofNat, Nat.mod_eq_of_lt (by omega)]
    have hread := Executes.single (h (BitVec.ofNat 8 m) (by omega))
    rw [hk, okWord_setWidth, List.getD_eq_getElem _ _ hm] at hread
    rw [List.range_succ, List.map_append, List.take_add_one, List.getElem?_eq_getElem hm, List.map_append]
    exact (ih (by omega)).append hread

/-- A read of each byte of a digest in index order, by a command that writes nothing. -/
theorem executes_reads {f : Byte → Instr} {s : State} {n : Nat} {digest : List Byte} (hlen : digest.length = n)
    (hn : n ≤ 256) (h : ∀ k : Byte, k.toNat < n → Effect (f k) s s (digest.getD k.toNat 0)) :
    Executes ((List.range n).map fun k => f (BitVec.ofNat 8 k)) s s
      (digest.map fun d => BitVec.ofNat 16 d.toNat) := by
  subst hlen
  have hreads := executes_reads_take hn h digest.length (Nat.le_refl _)
  rwa [List.take_length] at hreads

theorem DL_le_256 (a : Alg) : a.DL ≤ 256 := by cases a <;> decide

/-- A proper beginning of a byte sequence is shorter. -/
theorem length_lt_of_append_singleton_isPrefix {p bs : List Byte} {b : Byte} (h : p ++ [b] <+: bs) :
    p.length < bs.length := by
  have hle := h.length_le
  rw [List.length_append, List.length_singleton] at hle
  omega

/-- Within the bound of rule R125 every byte passes `len_ok`. -/
theorem lenOk_absorbBytes {a : Alg} {e : Engine} {p : List Byte} {n : Nat} (he : e.bitlen = 8 * n)
    (h : n + p.length < maxBytes a) : lenOk a (absorbBytes a e p) = true := by
  obtain ⟨-, -, hbits⟩ := absorbBytes_keeps a p e
  have hlimit := limit_eq a
  rw [lenOk_iff, hbits]
  omega

theorem absorbBytes_append_singleton (a : Alg) (e : Engine) (p : List Byte) (b : Byte) :
    absorbBytes a e (p ++ [b]) = engAbsorb a (absorbBytes a e p) b := absorbBytes_append a e p [b]

/-- The responses of a command, one command for each byte, and a last command. -/
theorem zeros_around (n : Nat) :
    [okWord 0] ++ List.replicate n 0x0000 ++ [okWord 0] = List.replicate (n + 2) (0x0000 : Word) := by
  rw [List.replicate_succ', List.replicate_succ]
  rfl

/-! ### HASH and RDDALL (40_engine_commands.md section 7) -/

/-- UPDS from a ready ENG absorbs the bytes. -/
theorem executes_upds {s : State} {a : Alg} (ha : configuredAlg s = some a) (hp : s.eng.phase = .ready)
    (hbits : s.eng.bitlen = 0) (msg : List Byte) (hm : msg.length ≤ maxBytes a) :
    Executes (updsCommands msg) s (s.setEng (absorbBytes a s.eng msg)) (List.replicate msg.length 0x0000) := by
  refine executes_bytes (σ := fun p => s.setEng (absorbBytes a s.eng p)) msg fun p b hpre => ?_
  have hlt := length_lt_of_append_singleton_isPrefix hpre
  obtain ⟨hphase, -, -⟩ := absorbBytes_keeps a p s.eng
  rw [absorbBytes_append_singleton]
  exact .upd (s := s.setEng (absorbBytes a s.eng p)) b ha (hphase.trans hp)
    (lenOk_absorbBytes (n := 0) hbits (by omega))

/-- HASH M leaves ENG finalized over M and answers 0x0000 throughout. -/
theorem executes_hash {s : State} {a : Alg} (ha : configuredAlg s = some a) (msg : List Byte)
    (hm : msg.length ≤ maxBytes a) :
    Executes (hashCommands msg) s (s.setEng (engFinalize a (absorbBytes a (engInit a s.eng) msg)))
      (List.replicate (msg.length + 2) 0x0000) := by
  have hupds := executes_upds (s := s.setEng (engInit a s.eng)) ha rfl rfl msg hm
  obtain ⟨hphase, -, -⟩ := absorbBytes_keeps a msg (engInit a s.eng)
  have hfin := Executes.single (.fin (s := s.setEng (absorbBytes a (engInit a s.eng) msg)) ha hphase)
  rw [← zeros_around]
  exact ((Executes.single (.init ha)).append hupds).append hfin

/-- RDDALL answers the bytes of DIGEST and leaves everything as it is. -/
theorem executes_rddAll {s : State} {a : Alg} (ha : configuredAlg s = some a) (hp : s.eng.phase = .final)
    (hlen : s.eng.digest.length = a.DL) :
    Executes (rddAllCommands a) s s (s.eng.digest.map fun d => BitVec.ofNat 16 d.toNat) :=
  executes_reads hlen (DL_le_256 a) fun k hk => .rdd k ha hp ((digestByte_some a s.eng k _).mpr ⟨hk, rfl⟩)

theorem hashCommands_length (msg : List Byte) : (hashCommands msg).length = msg.length + 2 := by
  simp [hashCommands, updsCommands]

theorem rddAllCommands_length (a : Alg) : (rddAllCommands a).length = a.DL := by simp [rddAllCommands]

/-- Settles O45: HASH leaves the digest of the message in ENG (`engFinalize_absorbBytes_digest`), RDDALL reads it. -/
theorem hashCommandsDeliverTheDigest : Obligations.HashCommandsDeliverTheDigest := by
  unfold Obligations.HashCommandsDeliverTheDigest
  intro s a msg hr hs hm
  have ha := configuredAlg_some hr hs
  have hdigest := engFinalize_absorbBytes_digest a s.eng msg
  have hhash := executes_hash ha msg hm
  have hreads := executes_rddAll (s := s.setEng (engFinalize a (absorbBytes a (engInit a s.eng) msg))) ha rfl
    (by rw [State.setEng_eng, hdigest, digestOf_length])
  have hrun := (hhash.append hreads).run
  rw [List.length_append, hashCommands_length, rddAllCommands_length, State.setEng_eng, hdigest] at hrun
  exact ⟨_, hrun, (List.append_assoc _ _ _).symm, rfl, hdigest, rfl, rfl, rfl, rfl, rfl, rfl, rfl⟩

/-! ### HKEY (46_hmac.md section 2) -/

/-- KBUF once the bytes `p` of a key have been sent: as many as have room, then zeros (46_hmac.md rule R242). -/
def keyBytes (a : Alg) (p : List Byte) : List Byte := p.take a.B ++ rep 0x00 (a.B - p.length)

/-- What a key received so far has left (46_hmac.md rule R242): INNER over its bytes, KBUF and KLEN. -/
def keyingState (a : Alg) (s : State) (p : List Byte) : State :=
  (((s.setInner (absorbBytes a (engInit a s.inner) p)).setKbuf (keyBytes a p)).setKlen
    (min p.length (a.B + 1))).setHphase .keying

/-- A byte stored at KLEN stands after the bytes before it; past the block it is dropped. -/
theorem storeKeyByte_keyBytes (a : Alg) (p : List Byte) (b : Byte) :
    storeKeyByte a (keyBytes a p) (min p.length (a.B + 1)) b = keyBytes a (p ++ [b]) := by
  by_cases hroom : p.length < a.B
  · have hzeros : a.B - p.length = a.B - (p.length + 1) + 1 := by omega
    have hlen : min p.length (a.B + 1) = p.length := by omega
    rw [storeKeyByte, hlen, if_pos hroom, keyBytes, keyBytes, List.take_of_length_le hroom.le,
      List.take_of_length_le (by simpa using hroom), List.length_append, List.length_singleton, hzeros, rep,
      List.replicate_succ, List.set_append_right _ _ (Nat.le_refl _), Nat.sub_self, List.set_cons_zero,
      List.append_assoc]
    rfl
  · have hle : a.B ≤ p.length := Nat.le_of_not_lt hroom
    rw [storeKeyByte, if_neg (by omega), keyBytes, keyBytes, List.take_append_of_le_length hle,
      Nat.sub_eq_zero_of_le hle, Nat.sub_eq_zero_of_le (by rw [List.length_append]; omega)]

theorem keyingState_nil (a : Alg) (s : State) : keyingState a s [] =
    (((s.setInner (engInit a s.inner)).setKbuf (rep 0x00 a.B)).setKlen 0).setHphase .keying := by
  rw [keyingState, List.length_nil, Nat.zero_min, keyBytes, List.take_nil, List.nil_append]
  rfl

/-- One more key byte is the effect of HKUPD (46_hmac.md rule R242). -/
theorem effect_hkupd {s : State} {a : Alg} (ha : configuredAlg s = some a) (p : List Byte) (b : Byte)
    (hp : p.length < maxBytes a) :
    Effect (.hkupd b) (keyingState a s p) (keyingState a s (p ++ [b])) 0 := by
  have hnext := Effect.hkupd (s := keyingState a s p) b ha rfl (lenOk_absorbBytes (n := 0) rfl (by omega))
  have hklen : countKeyByte a (keyingState a s p).klen = min (p ++ [b]).length (a.B + 1) := by
    rw [List.length_append]
    exact countKeyByte_min a p.length
  have hkbuf : storeKeyByte a (keyingState a s p).kbuf (keyingState a s p).klen b = keyBytes a (p ++ [b]) :=
    storeKeyByte_keyBytes a p b
  have hinner : engAbsorb a (keyingState a s p).inner b = absorbBytes a (engInit a s.inner) (p ++ [b]) :=
    (absorbBytes_append_singleton a _ p b).symm
  rw [hklen, hkbuf, hinner] at hnext
  exact hnext

/-- The key bytes after HKINIT. -/
theorem executes_hkupds {s : State} {a : Alg} (ha : configuredAlg s = some a) (key : List Byte)
    (hk : key.length ≤ maxBytes a) :
    Executes (key.map .hkupd) (keyingState a s []) (keyingState a s key) (List.replicate key.length 0x0000) :=
  executes_bytes (σ := keyingState a s) key fun p b hpre =>
    effect_hkupd ha p b ((length_lt_of_append_singleton_isPrefix hpre).trans_le hk)

/-- The key block of a key of at most B bytes is the bytes received. -/
theorem keyBytes_eq_keyBlock {a : Alg} {key : List Byte} (h : key.length ≤ a.B) : keyBytes a key = keyBlock a key := by
  rw [keyBytes, keyBlock, if_pos h, List.take_of_length_le h]

/-- The key block of a longer key is its digest with zeros. -/
theorem digestKey_eq_keyBlock {a : Alg} {key : List Byte} (e : Engine) (h : a.B < key.length) :
    digestKey a (engFinalize a (absorbBytes a (engInit a e) key)) = keyBlock a key := by
  rw [digestKey, engFinalize_absorbBytes_digest, keyBlock, if_neg (Nat.not_le_of_lt h),
    List.take_of_length_le (digestOf_length a key).le]

theorem keyBlock_length (a : Alg) (key : List Byte) : (keyBlock a key).length = a.B := by
  have hDL := DL_le_B a
  rw [keyBlock]
  split
  · rw [List.length_append, rep_length]
    omega
  · rw [List.length_append, rep_length, digestOf_length]
    omega

/-- HKFIN after the bytes of a key, by whether it is longer than the block. -/
theorem effect_hkfin {s : State} {a : Alg} (ha : configuredAlg s = some a) (key : List Byte) :
    ∃ t, Effect .hkfin (keyingState a s key) t 0 ∧ t.kbuf = keyBlock a key ∧ t.hphase = .keyed ∧ t.eng = s.eng ∧
      t.outer = s.outer := by
  by_cases hlong : a.B < key.length
  · have hklen : a.B < (keyingState a s key).klen := Nat.lt_min.mpr ⟨hlong, Nat.lt_succ_self _⟩
    exact ⟨_, .hkfinLong (s := keyingState a s key) ha rfl hklen, digestKey_eq_keyBlock s.inner hlong, rfl,
      by simp [keyingState], by simp [keyingState]⟩
  · have hle := Nat.le_of_not_lt hlong
    have hklen : (keyingState a s key).klen ≤ a.B := (Nat.min_le_left _ _).trans hle
    exact ⟨_, .hkfinShort (s := keyingState a s key) ha rfl hklen, keyBytes_eq_keyBlock hle, rfl, rfl, rfl⟩

/-- HKEY K leaves the key block in KBUF. -/
theorem executes_hkey {s : State} {a : Alg} (ha : configuredAlg s = some a) (key : List Byte)
    (hk : key.length ≤ maxBytes a) :
    ∃ t, Executes (hkeyCommands key) s t (List.replicate (key.length + 2) 0x0000) ∧ t.kbuf = keyBlock a key ∧
      t.hphase = .keyed ∧ t.eng = s.eng ∧ t.outer = s.outer := by
  obtain ⟨t, hfin, hkbuf, hphase, heng, houter⟩ := effect_hkfin ha key
  have hinit := Executes.single (Effect.hkinit ha)
  rw [← keyingState_nil] at hinit
  refine ⟨t, ?_, hkbuf, hphase, heng, houter⟩
  rw [← zeros_around]
  exact (hinit.append (executes_hkupds ha key hk)).append (.single hfin)

theorem hkeyCommands_length (key : List Byte) : (hkeyCommands key).length = key.length + 2 := by
  simp [hkeyCommands]

/-- Settles O46: `executes_hkey`, run by the machine. -/
theorem keyCommandsLeaveTheKeyBlock : Obligations.KeyCommandsLeaveTheKeyBlock := by
  unfold Obligations.KeyCommandsLeaveTheKeyBlock
  intro s a key hr hs hk
  obtain ⟨t, hexec, hkbuf, hphase, heng, houter⟩ := executes_hkey (configuredAlg_some hr hs) key hk
  obtain ⟨hsel, hrej, herr, hin, hout⟩ := hexec.keeps
  have hrun := hexec.run
  rw [hkeyCommands_length] at hrun
  exact ⟨_, hrun, hkbuf, (congrArg List.length hkbuf).trans (keyBlock_length a key), hphase, heng, houter, herr, hsel,
    hrej, hin, congrArg (· ++ _) hout⟩

/-! ### HMSG and HRDMALL (46_hmac.md section 3) -/

/-- The inner digest of HMFIN: that of the ipad block and the message. -/
theorem inner_digest_eq {a : Alg} (e : Engine) {kbuf : List Byte} (hk : kbuf.length = a.B) (msg : List Byte) :
    (engFinalize a (absorbBytes a (absorbPad a e kbuf ipad) msg)).digest = digestOf a (xorb kbuf 0x36 ++ msg) := by
  rw [absorbPad, List.take_of_length_le hk.le, ← absorbBytes_append, engFinalize_absorbBytes_digest]
  rfl

/-- The outer digest of HMFIN: that of the opad block and the inner digest. -/
theorem outer_digest_eq {a : Alg} (outer inner : Engine) {kbuf : List Byte} (hk : kbuf.length = a.B)
    (hin : inner.digest.length = a.DL) :
    (outerDigest a outer inner kbuf).digest = digestOf a (xorb kbuf 0x5c ++ inner.digest) := by
  rw [outerDigest, absorbPad, List.take_of_length_le hk.le, List.take_of_length_le hin.le, ← absorbBytes_append,
    engFinalize_absorbBytes_digest]
  rfl

/-- HMFIN after a message leaves its MAC under KBUF in OUTER. -/
theorem outerDigest_mac {a : Alg} (outer e : Engine) {kbuf : List Byte} (hk : kbuf.length = a.B) (msg : List Byte) :
    (outerDigest a outer (engFinalize a (absorbBytes a (absorbPad a e kbuf ipad) msg)) kbuf).digest =
      macOf a kbuf msg := by
  have hinner := inner_digest_eq e hk msg
  rw [outer_digest_eq _ _ hk (by rw [hinner, digestOf_length]), hinner, macOf]

/-- What a message received so far has left (46_hmac.md rules R248, R249): INNER over the ipad block and its bytes. -/
def messageState (a : Alg) (s : State) (p : List Byte) : State :=
  (s.setInner (absorbBytes a (absorbPad a s.inner s.kbuf ipad) p)).setHphase .msg

/-- One more message byte is the effect of HMUPD (46_hmac.md rule R249). -/
theorem effect_hmupd {s : State} {a : Alg} (ha : configuredAlg s = some a) (hk : s.kbuf.length = a.B) (p : List Byte)
    (b : Byte) (hp : a.B + p.length < maxBytes a) :
    Effect (.hmupd b) (messageState a s p) (messageState a s (p ++ [b])) 0 := by
  have hbits := absorbPad_bitlen a s.inner s.kbuf ipad hk
  rw [messageState, messageState, absorbBytes_append_singleton]
  exact .hmupd (s := messageState a s p) b ha rfl (lenOk_absorbBytes hbits hp)

/-- HMFIN after the bytes of a message. -/
theorem effect_hmfin {s : State} {a : Alg} (ha : configuredAlg s = some a) (hk : s.kbuf.length = a.B)
    (msg : List Byte) :
    ∃ t, Effect .hmfin (messageState a s msg) t 0 ∧ t.outer.digest = macOf a s.kbuf msg ∧ t.hphase = .done ∧
      t.kbuf = s.kbuf ∧ t.klen = s.klen ∧ t.eng = s.eng :=
  ⟨_, .hmfin (s := messageState a s msg) ha rfl, outerDigest_mac s.outer s.inner hk msg, rfl, by simp [messageState],
    by simp [messageState], by simp [messageState]⟩

/-- HMSG M with a key loaded leaves the MAC of M in OUTER. -/
theorem executes_hmsg {s : State} {a : Alg} (ha : configuredAlg s = some a) (hp : keyLoaded s.hphase = true)
    (hk : s.kbuf.length = a.B) (msg : List Byte) (hm : msg.length + a.B ≤ maxBytes a) :
    ∃ t, Executes (hmsgCommands msg) s t (List.replicate (msg.length + 2) 0x0000) ∧
      t.outer.digest = macOf a s.kbuf msg ∧ t.hphase = .done ∧ t.kbuf = s.kbuf ∧ t.klen = s.klen ∧ t.eng = s.eng := by
  have hinit : Effect .hminit s (messageState a s []) 0 := .hminit ha hp
  have hupds : Executes (msg.map .hmupd) (messageState a s []) (messageState a s msg) _ :=
    executes_bytes msg fun p b hpre => effect_hmupd ha hk p b (by
      have hlt := length_lt_of_append_singleton_isPrefix hpre
      omega)
  obtain ⟨t, hfin, hmac⟩ := effect_hmfin ha hk msg
  refine ⟨t, ?_, hmac⟩
  rw [← zeros_around]
  exact ((Executes.single hinit).append hupds).append (.single hfin)

/-- HRDMALL answers the bytes of the MAC and leaves everything as it is. -/
theorem executes_hrdmAll {s : State} {a : Alg} (ha : configuredAlg s = some a) (hp : s.hphase = .done)
    (hlen : s.outer.digest.length = a.DL) :
    Executes (hrdmAllCommands a) s s (s.outer.digest.map fun d => BitVec.ofNat 16 d.toNat) :=
  executes_reads hlen (DL_le_256 a) fun k hk => .hrdm k ha hp ((digestByte_some a s.outer k _).mpr ⟨hk, rfl⟩)

theorem hmsgCommands_length (msg : List Byte) : (hmsgCommands msg).length = msg.length + 2 := by
  simp [hmsgCommands]

/-- Settles O47: `executes_hmsg`, run by the machine. -/
theorem messageCommandsLeaveTheMac : Obligations.MessageCommandsLeaveTheMac := by
  unfold Obligations.MessageCommandsLeaveTheMac
  intro s a msg hr hs hp hk hm
  obtain ⟨t, hexec, hmac, hphase, hkbuf, hklen, heng⟩ :=
    executes_hmsg (configuredAlg_some hr hs) ((keyLoaded_iff _).mpr hp) hk msg hm
  obtain ⟨hsel, hrej, herr, hin, hout⟩ := hexec.keeps
  have hrun := hexec.run
  rw [hmsgCommands_length] at hrun
  exact ⟨_, hrun, hmac, hphase, hkbuf, hklen, heng, herr, hsel, hrej, hin, congrArg (· ++ _) hout⟩

/-! ### HMAC over several items (46_hmac.md section 3, rule R253) -/

/-- The responses to one item: those of HMSG, then the bytes of its MAC. -/
def itemResponses (a : Alg) (k0 m : List Byte) : List Word :=
  List.replicate (m.length + 2) 0x0000 ++ (macOf a k0 m).map fun d => BitVec.ofNat 16 d.toNat

/-- One item, with a key loaded: its MAC is delivered and the key stays loaded. -/
theorem executes_item {s : State} {a : Alg} (ha : configuredAlg s = some a) (hp : keyLoaded s.hphase = true)
    (hk : s.kbuf.length = a.B) (msg : List Byte) (hm : msg.length + a.B ≤ maxBytes a) :
    ∃ t, Executes (hmsgCommands msg ++ hrdmAllCommands a) s t (itemResponses a s.kbuf msg) ∧
      configuredAlg t = some a ∧ keyLoaded t.hphase = true ∧ t.kbuf = s.kbuf ∧ t.eng = s.eng := by
  obtain ⟨t, hexec, hmac, hphase, hkbuf, -, heng⟩ := executes_hmsg ha hp hk msg hm
  obtain ⟨hsel, hrej, -, -, -⟩ := hexec.keeps
  have ha' := (configuredAlg_congr hsel hrej).trans ha
  have hreads := executes_hrdmAll ha' hphase (by rw [hmac, macOf, digestOf_length])
  rw [hmac] at hreads
  exact ⟨t, hexec.append hreads, ha', by rw [hphase]; rfl, hkbuf, heng⟩

/-- Any number of items, in order, under the same key. -/
theorem executes_items {s : State} {a : Alg} (ha : configuredAlg s = some a) (hp : keyLoaded s.hphase = true)
    (hk : s.kbuf.length = a.B) (msgs : List (List Byte)) (hm : ∀ m ∈ msgs, m.length + a.B ≤ maxBytes a) :
    ∃ t, Executes (msgs.flatMap fun m => hmsgCommands m ++ hrdmAllCommands a) s t
      (msgs.flatMap (itemResponses a s.kbuf)) ∧ t.kbuf = s.kbuf ∧ t.eng = s.eng := by
  induction msgs generalizing s with
  | nil => exact ⟨s, .nil s, rfl, rfl⟩
  | cons m msgs ih =>
    obtain ⟨u, hitem, ha', hp', hkbuf, heng⟩ := executes_item ha hp hk m (hm m List.mem_cons_self)
    obtain ⟨t, hitems, hkbuf', heng'⟩ :=
      ih ha' hp' (hkbuf.symm ▸ hk) fun n hn => hm n (List.mem_cons_of_mem m hn)
    rw [hkbuf] at hitems
    exact ⟨t, hitem.append hitems, hkbuf'.trans hkbuf, heng'.trans heng⟩

/-- Settles O48: the key commands leave K0 in KBUF (`executes_hkey`), then each item is answered under it
(`executes_items`). -/
theorem hmacCommandsDeliverOneMacPerItem : Obligations.HmacCommandsDeliverOneMacPerItem := by
  unfold Obligations.HmacCommandsDeliverOneMacPerItem
  intro s a key msgs hr hs hkey hmsgs
  have ha := configuredAlg_some hr hs
  obtain ⟨u, hload, hkbuf, hphase, heng, -⟩ := executes_hkey ha key hkey
  obtain ⟨hsel, hrej, -, -, -⟩ := hload.keeps
  obtain ⟨t, hitems, hkbuf', heng'⟩ := executes_items ((configuredAlg_congr hsel hrej).trans ha)
    (by rw [hphase]; rfl) (by rw [hkbuf, keyBlock_length]) msgs hmsgs
  have hall := hload.append hitems
  obtain ⟨-, -, herr, hin, hout⟩ := hall.keeps
  rw [hkbuf] at hall
  refine ⟨_, hall.run, ?_, hkbuf'.trans hkbuf, heng'.trans heng, herr, hin⟩
  exact (congrArg (· ++ _) hout).trans (List.append_assoc _ _ _).symm

end Sys2Proof.Machine
